-- ==== Sys2Proof/Word.lean ====
section
/-! DEFINITION. The word types of the GK-96, and the two total operations on fixed-length tables that the
blocks use (change one entry; change every entry). -/

namespace Sys2Proof

/-- One character's data bits, one byte of a frame (09 R166, 10 R180). -/
abbrev Byte := BitVec 8

/-- Change one entry of a table. -/
def upd {α : Type} {n : Nat} (v : Vector α n) (i : Fin n) (f : α → α) : Vector α n :=
  v.set i (f v[i])

/-- Change every entry of a table (written over the entry list so that the kernel evaluates it). -/
def mapAll {α β : Type} {n : Nat} (f : α → β) (v : Vector α n) : Vector β n :=
  ⟨⟨v.toList.map f⟩, by simp⟩

end Sys2Proof
end

