-- ==== Sys2Proof/Syntax.lean ====
section
/-! DEFINITION. The commands of the GK-96: one constructor for each row of spec/opcode_table.json, with the row's
operands. -/

namespace Sys2Proof

/-- The two serial links (09 §9.1). -/
inductive Link
  | showLink
  | servicePort
  deriving DecidableEq, Repr

/-- A request frame as a link carries it (09 Table 9.2.1), less its length and check, which follow from the
rest, and less its kind byte, which is the command's own constructor. `address` 31 on the show link is a
broadcast; `fields` are body bytes 3 onward, as they stand on the line (10 R180). -/
structure Frame where
  link : Link
  address : Byte
  tag : Byte
  fields : List Byte
  deriving DecidableEq, Repr

/-- The commands. A request command is the event in which its frame's request is taken from its link
(09 R173); the other commands are line events, events of the part's own timers, and the outside's signals. -/
inductive Instr
  /-- POWER ON or the reset pin (01 R13): the straps read (09 R165), and whether each receive line is then at
  space (09 R168). -/
  | powerOn (address : BitVec 5) (rate : BitVec 2) (showAtSpace serviceAtSpace : Bool)
  /-- A character with marker 1 is taken (09 R166, R169). -/
  | addressCharacter (link : Link) (value : Byte)
  /-- A character with marker 0 is taken (09 R166, R170). -/
  | dataCharacter (link : Link) (value : Byte)
  /-- A character's stop bit is sampled at space (09 R166, R171). -/
  | framingError (link : Link)
  /-- The line has been held at space for two character times (09 R171). -/
  | breakCondition (link : Link)
  /-- The show link's line has been held at space for 2,000 µs (09 R172). -/
  | longBreak
  /-- The receive line returns to mark (09 R171, R172). -/
  | lineReturnToMark (link : Link)
  /-- The reply shifter has sent its frame's last stop bit (09 R176). -/
  | replyTransmissionEnd (link : Link)
  /-- A frame whose kind byte names no request is presented (09 R174). -/
  | unknownRequest (kind : Byte) (frame : Frame)
  /-- OPEN CUE (01 R9), kind 10h. Fields: slot; priority; tempo (3); beats per bar; rewind mode; lead-in ms (2); low-water. -/
  | openCue (frame : Frame)
  /-- EVENTS (01 R10, 10 R182), kind 11h. Fields: slot; count c; c event records of 8 bytes. -/
  | events (frame : Frame)
  /-- READ CUE (01 R12), kind 12h. Fields: slot; entry index in the second form. -/
  | readCue (frame : Frame)
  /-- SET HORIZON (01 R18), kind 13h. Fields: horizon ms. -/
  | setHorizon (frame : Frame)
  /-- SYNC (01 R25), kind 14h. Fields: master show time (6). -/
  | sync (frame : Frame)
  /-- NUDGE (01 R26), kind 15h. Fields: percentage, signed. -/
  | nudge (frame : Frame)
  /-- START (02 R30), kind 20h. Fields: slot. -/
  | start (frame : Frame)
  /-- PAUSE (02 R38), kind 21h. Fields: none. -/
  | pause (frame : Frame)
  /-- CONTINUE (02 R40), kind 22h. Fields: none. -/
  | continueCue (frame : Frame)
  /-- DROP CUE (02 R41), kind 23h. Fields: slot. -/
  | dropCue (frame : Frame)
  /-- SET MASK (02 R43), kind 24h. Fields: base mask. -/
  | setMask (frame : Frame)
  /-- SET TRANSPOSE (02 R44), kind 25h. Fields: slot; transposition, signed. -/
  | setTranspose (frame : Frame)
  /-- SET DYNAMICS (02 R45), kind 26h. Fields: slot; percentage. -/
  | setDynamics (frame : Frame)
  /-- READ STACK (02 R46), kind 27h. Fields: none, or a stack position. -/
  | readStack (frame : Frame)
  /-- SET WINDOW (03 R50), kind 30h. Fields: window; enabled; first pitch; count; first group. -/
  | setWindow (frame : Frame)
  /-- READ WINDOW (03 R52), kind 31h. Fields: form; window or pitch. -/
  | readWindow (frame : Frame)
  /-- SET GROUP (03 R54), kind 32h. Fields: group; curve; busy policy; delay limit ms; member count m; m channels. -/
  | setGroup (frame : Frame)
  /-- READ GROUP (03 R56), kind 33h. Fields: group. -/
  | readGroup (frame : Frame)
  /-- SET CURVE (03 R59), kind 34h. Fields: curve; five points of width (2) and flight time (2). -/
  | setCurve (frame : Frame)
  /-- READ CURVE (03 R60), kind 35h. Fields: curve; velocity in the second form. -/
  | readCurve (frame : Frame)
  /-- SET LANES (03 R61), kind 36h. Fields: none, or the lanes of classes 0 to 7. -/
  | setLanes (frame : Frame)
  /-- READ FIRE LIST (04 R87, R88), kind 40h. Fields: form; clear option or start position. -/
  | readFireList (frame : Frame)
  /-- SET LATE LIMITS (04 R85), kind 41h. Fields: lane 0 limit ms; lane 1 limit ms. -/
  | setLateLimits (frame : Frame)
  /-- LOAD PHASES (05 R92), kind 50h. Fields: offset; count c; c phase entries. -/
  | loadPhases (frame : Frame)
  /-- COMMIT PHASES (05 R93), kind 51h. Fields: none. -/
  | commitPhases (frame : Frame)
  /-- READ PHASES (05 R95), kind 52h. Fields: table choice; offset; count. -/
  | readPhases (frame : Frame)
  /-- SET RAIL (05 R101), kind 53h. Fields: rail; limit (2); drain (2). -/
  | setRail (frame : Frame)
  /-- READ RAIL (05 R103), kind 54h. Fields: rail. -/
  | readRail (frame : Frame)
  /-- CLEAR RAIL LATCH (05 R102), kind 55h. Fields: rail. -/
  | clearRailLatch (frame : Frame)
  /-- SET CHANNEL (06 R119), kind 60h. Fields: channel; rail; current class; recovery ms. `noCurrent`: the sense result of a pulse the request may begin (06 R114). -/
  | setChannel (frame : Frame) (noCurrent : Bool)
  /-- READ CHANNEL (06 R120), kind 61h. Fields: channel designation. -/
  | readChannel (frame : Frame)
  /-- FENCE (06 R117), kind 62h. Fields: channel. -/
  | fence (frame : Frame)
  /-- UNFENCE (06 R118), kind 63h. Fields: channel. -/
  | unfence (frame : Frame)
  /-- SET HOLD CHANNEL (06 R122), kind 64h. Fields: hold channel; rail; load (2). -/
  | setHoldChannel (frame : Frame)
  /-- SET ROTOR CHANNEL (06 R126), kind 65h. Fields: rotor channel; rail; load (2); ramp step. -/
  | setRotorChannel (frame : Frame)
  /-- TEST FIRE (06 R128), kind 66h. Fields: channel; velocity; curve. -/
  | testFire (frame : Frame)
  /-- TEST HOLD (06 R129), kind 67h. Fields: hold channel; ON/OFF. -/
  | testHold (frame : Frame)
  /-- TEST ROTOR (06 R129), kind 68h. Fields: rotor channel; target speed. -/
  | testRotor (frame : Frame)
  /-- READ STATE (07 R145), kind 70h. Fields: none. -/
  | readState (frame : Frame)
  /-- HUSH (07 R135), kind 71h. Fields: none. -/
  | hush (frame : Frame)
  /-- SECTION RESET (07 R144), kind 72h. Fields: none. -/
  | sectionReset (frame : Frame)
  /-- TAKE (07 R138), kind 73h. Fields: forced. -/
  | take (frame : Frame)
  /-- RELEASE (07 R141), kind 74h. Fields: none. -/
  | release (frame : Frame)
  /-- CLEAR HALT (07 R143), kind 75h. Fields: none. -/
  | clearHalt (frame : Frame)
  /-- SET BREAK HUSH (07 R137), kind 76h. Fields: enable. -/
  | setBreakHush (frame : Frame)
  /-- READ FAULTS (08 R154), kind 80h. Fields: none. -/
  | readFaults (frame : Frame)
  /-- CLEAR FAULTS (08 R155), kind 81h. Fields: kind set (2). -/
  | clearFaults (frame : Frame)
  /-- SET FAULT MASK (08 R156), kind 82h. Fields: kind set (2); mask value. -/
  | setFaultMask (frame : Frame)
  /-- SET SEVERITY (08 R157), kind 83h. Fields: kind; severity. -/
  | setSeverity (frame : Frame)
  /-- READ CAPTURE (08 R154), kind 84h. Fields: none. -/
  | readCapture (frame : Frame)
  /-- CLEAR CAPTURE (08 R158), kind 85h. Fields: none. -/
  | clearCapture (frame : Frame)
  /-- READ COUNTS (08 R159), kind 86h. Fields: clear option. -/
  | readCounts (frame : Frame)
  /-- READ ATTENTION (08 R162), kind 87h. Fields: none. -/
  | readAttention (frame : Frame)
  /-- CLEAR ATTENTION (08 R162), kind 88h. Fields: flag set (2). -/
  | clearAttention (frame : Frame)
  /-- MASK ATTENTION (08 R163), kind 89h. Fields: flag set (2). -/
  | maskAttention (frame : Frame)
  /-- UNMASK ATTENTION (08 R163), kind 8Ah. Fields: flag set (2). -/
  | unmaskAttention (frame : Frame)
  /-- CALL (08 R164), kind 8Bh. Fields: call number. -/
  | call (frame : Frame)
  /-- READ EXCHANGE (09 R178), kind 90h. Fields: first word; count. -/
  | readExchange (frame : Frame)
  /-- WRITE EXCHANGE (09 R179), kind 91h. Fields: first word; count c; c values (2 each); expected value (2) in the second form. -/
  | writeExchange (frame : Frame)
  /-- The head unplayed entry of the SOUNDING slot is committed (01 R19). -/
  | commit
  /-- The fire time of the first WAITING firing arrives (04 R74). -/
  | fireTimeArrival
  /-- The late expiry of the RAIL_WAIT firing with this number arrives (04 R75). -/
  | lateExpiry (number : BitVec 32)
  /-- A phase starts (05 R89). Bit n of `noCurrent`: channel n's coil shows no current if its pulse begins in
  this event (06 R112). -/
  | phaseStart (noCurrent : BitVec 96)
  /-- The end time of the channel's pulse in drive arrives (06 R113). -/
  | pulseEnd (channel : Fin 96)
  /-- The channel's ready time arrives (06 R114), with the sense result of a pulse that then begins. -/
  | recoveryEnd (channel : Fin 96) (noCurrent : Bool)
  /-- The sense chain reports SHORT for the channel (06 R115). -/
  | shortReport (channel : Fin 96)
  /-- The rotor's ramp timer expires (06 R125). -/
  | rampTimerExpiry (rotor : Fin 2)
  /-- The pendant silence timer expires (07 R140). -/
  | pendantSilenceExpiry
  /-- The receive line goes from mark to space (09 R168). -/
  | markToSpace (link : Link)
  deriving DecidableEq, Repr

end Sys2Proof
end

