-- ==== Sys2Proof/WellFormed.lean ====
section
/-! DEFINITION. Which commands a link of the part can carry at all. A command that is not well formed stands for
a frame that no link can hold, and changes nothing (log 4). What the PART refuses of a frame it can hold is in
the meanings (09 R174). -/

namespace Sys2Proof

/-- The kind bytes of 10 Table 10.2.1. -/
def requestKinds : List Byte :=
  [0x10, 0x11, 0x12, 0x13, 0x14, 0x15, 0x20, 0x21, 0x22, 0x23, 0x24, 0x25, 0x26, 0x27] ++
  [0x30, 0x31, 0x32, 0x33, 0x34, 0x35, 0x36, 0x40, 0x41] ++
  [0x50, 0x51, 0x52, 0x53, 0x54, 0x55] ++
  [0x60, 0x61, 0x62, 0x63, 0x64, 0x65, 0x66, 0x67, 0x68] ++
  [0x70, 0x71, 0x72, 0x73, 0x74, 0x75, 0x76] ++
  [0x80, 0x81, 0x82, 0x83, 0x84, 0x85, 0x86, 0x87, 0x88, 0x89, 0x8A, 0x8B, 0x90, 0x91]

/-- A body is 2 to 60 bytes: the kind, the tag and at most 58 field bytes (09 Table 9.2.1). -/
def Frame.bodyFits (f : Frame) : Bool := f.fields.length ≤ 58

/-- A frame on the show link is addressed to a part, 0 to 30, or to all, 31 (09 R165); the service port takes
every address value (09 R177). -/
def Frame.addressFits (f : Frame) : Bool :=
  match f.link with
  | .showLink => f.address.toNat ≤ 31
  | .servicePort => true

def Frame.wellFormed (f : Frame) : Bool := f.bodyFits && f.addressFits

/-- The frame of a request command, with the kind byte its body begins with (10 Table 10.2.1). -/
def Instr.request? : Instr → Option (Byte × Frame)
  | .unknownRequest k f => some (k, f)
  | .openCue f => some (0x10, f)
  | .events f => some (0x11, f)
  | .readCue f => some (0x12, f)
  | .setHorizon f => some (0x13, f)
  | .sync f => some (0x14, f)
  | .nudge f => some (0x15, f)
  | .start f => some (0x20, f)
  | .pause f => some (0x21, f)
  | .continueCue f => some (0x22, f)
  | .dropCue f => some (0x23, f)
  | .setMask f => some (0x24, f)
  | .setTranspose f => some (0x25, f)
  | .setDynamics f => some (0x26, f)
  | .readStack f => some (0x27, f)
  | .setWindow f => some (0x30, f)
  | .readWindow f => some (0x31, f)
  | .setGroup f => some (0x32, f)
  | .readGroup f => some (0x33, f)
  | .setCurve f => some (0x34, f)
  | .readCurve f => some (0x35, f)
  | .setLanes f => some (0x36, f)
  | .readFireList f => some (0x40, f)
  | .setLateLimits f => some (0x41, f)
  | .loadPhases f => some (0x50, f)
  | .commitPhases f => some (0x51, f)
  | .readPhases f => some (0x52, f)
  | .setRail f => some (0x53, f)
  | .readRail f => some (0x54, f)
  | .clearRailLatch f => some (0x55, f)
  | .setChannel f _ => some (0x60, f)
  | .readChannel f => some (0x61, f)
  | .fence f => some (0x62, f)
  | .unfence f => some (0x63, f)
  | .setHoldChannel f => some (0x64, f)
  | .setRotorChannel f => some (0x65, f)
  | .testFire f => some (0x66, f)
  | .testHold f => some (0x67, f)
  | .testRotor f => some (0x68, f)
  | .readState f => some (0x70, f)
  | .hush f => some (0x71, f)
  | .sectionReset f => some (0x72, f)
  | .take f => some (0x73, f)
  | .release f => some (0x74, f)
  | .clearHalt f => some (0x75, f)
  | .setBreakHush f => some (0x76, f)
  | .readFaults f => some (0x80, f)
  | .clearFaults f => some (0x81, f)
  | .setFaultMask f => some (0x82, f)
  | .setSeverity f => some (0x83, f)
  | .readCapture f => some (0x84, f)
  | .clearCapture f => some (0x85, f)
  | .readCounts f => some (0x86, f)
  | .readAttention f => some (0x87, f)
  | .clearAttention f => some (0x88, f)
  | .maskAttention f => some (0x89, f)
  | .unmaskAttention f => some (0x8A, f)
  | .call f => some (0x8B, f)
  | .readExchange f => some (0x90, f)
  | .writeExchange f => some (0x91, f)
  | .powerOn _ _ _ _ | .addressCharacter _ _ | .dataCharacter _ _ | .framingError _ | .breakCondition _ => none
  | .longBreak | .lineReturnToMark _ | .replyTransmissionEnd _ | .markToSpace _ => none
  | .commit | .fireTimeArrival | .lateExpiry _ | .phaseStart _ | .pulseEnd _ | .recoveryEnd _ _ => none
  | .shortReport _ | .rampTimerExpiry _ | .pendantSilenceExpiry => none

/-- A request command carries a frame its link can hold, and UNKNOWN REQUEST a kind byte that names no
request (09 R174). Every other command's operands are in range by their types. -/
def Instr.wellFormed (i : Instr) : Bool :=
  match i with
  | .unknownRequest k f => f.wellFormed && !requestKinds.contains k
  | i => match i.request? with
    | some (_, f) => f.wellFormed
    | none => true

end Sys2Proof
end

