-- ==== Sys2Proof/Decode.lean ====
section
/-! DEFINITION. Reading a command from the bits of its table row: spec/opcode_table.json gives bits for no row, so
no word spells a command. Request bodies are read from their bytes in Machine/Operands.lean. -/

namespace Sys2Proof

def decodeTableWord (_nbits _w : Nat) : Option Instr := none

end Sys2Proof
end

