-- ==== Sys2Proof/Config.lean ====
section
/-! DEFINITION. What the manual leaves open and the model fixes or leaves free. The `opaque` constants have no
body: nothing can be proved of their values, so a claim holds whatever they are. -/

namespace Sys2Proof.Config

/-- DESIGN CHOICE (log 5), unsafe: the address straps of the machine that `State.reset` describes (09 R165). -/
def addressStraps : BitVec 5 := 0

/-- DESIGN CHOICE (log 5), unsafe: the rate straps of the machine that `State.reset` describes (09 R165). -/
def rateStraps : BitVec 2 := 0

/-- Free value (log 2), safe: which of several moves open at one part time the part takes (09 R173, 05 R108). -/
opaque moveChoice : Nat → Nat

/-- Free value (log 9), safe: the strike channels whose coils show no current at a pulse begin, in an event
that the part takes by itself (06 R112). -/
opaque noCoilCurrent : Nat → BitVec 96

/-- Free value (log 7), safe: what a six-byte time field shows of a time that does not fit it (10 R180). -/
opaque unencodableTime : Int → BitVec 48

/-- Free value (log 8), safe: the phase index READ PHASES reports before the first phase has begun (05 R95). -/
opaque phaseIndexBeforeFirst : Byte

/-- Free value (log 19), safe: the code byte of a listed firing's state, WAITING (false) or RAIL_WAIT (true),
which 10 Table 10.1.1 does not give. -/
opaque firingStateCode : Bool → Byte

/-- Free value (log 22), safe: the six body bytes of a link capture of which the byte count, here the bytes held,
makes only the first ones meaningful (10 Table 10.3.4). -/
opaque meaninglessBodyBytes : List Byte → Vector Byte 6

end Sys2Proof.Config
end

