-- ==== Sys2Proof/Machine/State.lean ====
section
/-! DEFINITION. The state of the GK-96, block by block as the manual lists it (00 Table 0.3.1), and the state
after reset. Every field is plain data. -/

namespace Sys2Proof.Machine

/-- A time in µs: part time or show time, held exactly (01 R13). -/
abbrev Time := Int

abbrev SlotId := Fin 4
abbrev RailId := Fin 4
abbrev ChannelId := Fin 96
abbrev GroupId := Fin 48
abbrev CurveId := Fin 8
abbrev WindowId := Fin 8
abbrev HoldId := Fin 4
abbrev RotorId := Fin 2
abbrev Lane := Fin 2

/-! ### Cue engine (chapter 1) -/

inductive SlotState
  | empty | loaded | waiting | sounding | paused | suspended
  deriving DecidableEq, Repr

inductive RewindMode
  | exactMode | beatMode | barMode
  deriving DecidableEq, Repr

/-- The kind of an event and the kind's fields (01 Table 1.3.1). -/
inductive EventData
  | note (pitch velocity : Nat) (voiceClass : Fin 8)
  | hold (channel : HoldId) (on : Bool)
  | rotor (channel : RotorId) (target : Nat)
  | tempo (usPerBeat : Nat)
  | meter (beatsPerBar : Nat)
  | mark (number : Nat)
  | ending
  deriving DecidableEq, Repr

/-- An event entry of the score (01 R7). -/
structure Event where
  tick : Nat
  data : EventData
  deriving DecidableEq, Repr

inductive CommitOutcome
  | fired | applied | skippedUnmapped | skippedLate | skippedBusy
  deriving DecidableEq, Repr

/-- The timing in force at the commit cursor (01 R2, "commit state"). -/
structure CommitState where
  tempo : Nat
  barOrigin : Nat
  beatsPerBar : Nat
  deriving DecidableEq, Repr

/-- Commit annotation (01 R8, Table 1.3.2). `before` is the commit state before the entry took effect. -/
structure Annotation where
  due : Time
  beatStart : Nat
  barStart : Nat
  before : CommitState
  outcome : CommitOutcome
  deriving DecidableEq, Repr

/-- A committed entry: the event with its annotation (01 R8). -/
structure Committed where
  event : Event
  note : Annotation
  deriving DecidableEq, Repr

/-- An event ring of 256 places (01 R4): the retained region from the release cursor to the commit cursor, the
unplayed region from the commit cursor to the write cursor. An entry with no annotation is uncommitted (01 R8), so
the two regions are lists of two types. The commit and write cursors and the counts are computed (log 14). -/
structure Ring where
  release : BitVec 8
  retained : List Committed
  unplayed : List Event
  closed : Bool
  deriving DecidableEq, Repr

inductive Anchor
  | pending (tempo : Nat)
  | set (tick : Nat) (showTime : Time) (tempo : Nat)
  deriving DecidableEq, Repr

inductive FreezePoint
  | entry | tail | none
  deriving DecidableEq, Repr

/-- Freeze point, freeze tick and resume tick (02 R34), also the pause record of a PAUSED slot (02 R27). -/
structure PauseRecord where
  point : FreezePoint
  freezeTick : Nat
  resumeTick : Option Nat
  deriving DecidableEq, Repr

/-- Cue slot record (01 R2, Table 1.1.1) with the arbiter's part of it (02 R27). -/
structure Slot where
  state : SlotState
  priority : Nat
  rewindMode : RewindMode
  leadInMs : Nat
  lowWater : Nat
  transposition : Int
  dynamics : Nat
  ring : Ring
  anchor : Anchor
  timing : CommitState
  waitingOrder : Option (BitVec 32)
  pause : Option PauseRecord
  deriving DecidableEq, Repr

/-- Cue engine: the slots, the sync offset (01 R13) and the commit horizon (01 R18). -/
structure CueEngine where
  slots : Vector Slot 4
  syncOffset : Int
  horizonMs : Nat
  deriving DecidableEq, Repr

/-! ### Cue arbiter (chapter 2) -/

/-- Context record (02 R36, Table 2.3.2). -/
structure ContextRecord where
  slot : SlotId
  freeze : PauseRecord
  timing : CommitState
  transposition : Int
  dynamics : Nat
  holds : Vector Bool 4
  rotorTargets : Vector Nat 2
  savedMask : Nat
  deriving DecidableEq, Repr

/-- An entry of the waiting set (02 R32). -/
structure WaitingEntry where
  slot : SlotId
  sequence : BitVec 32
  deriving DecidableEq, Repr

/-- Cue arbiter: the context stack with its top first, the waiting set with its front first, the base mask and
the START sequence counter (02 R27). -/
structure CueArbiter where
  stack : List ContextRecord
  waiting : List WaitingEntry
  baseMask : Nat
  startSequence : BitVec 32
  deriving DecidableEq, Repr

/-! ### Pitch map (chapter 3) -/

/-- Pitch window (03 R49, Table 3.2.1). -/
structure Window where
  enabled : Bool
  firstPitch : Nat
  count : Nat
  firstGroup : Nat
  deriving DecidableEq, Repr

inductive BusyPolicy
  | delay | drop
  deriving DecidableEq, Repr

/-- Striker group (03 R53, Table 3.3.1). -/
structure Group where
  members : List ChannelId
  curve : CurveId
  policy : BusyPolicy
  delayLimitMs : Nat
  deriving DecidableEq, Repr

/-- A point of a velocity curve, in µs (03 R57). -/
structure CurvePoint where
  width : Nat
  flight : Nat
  deriving DecidableEq, Repr

/-- The five points at velocities 1, 32, 64, 96 and 127 (03 Table 3.4.1). -/
abbrev Curve := Vector CurvePoint 5

structure PitchMap where
  windows : Vector Window 8
  groups : Vector Group 48
  curves : Vector Curve 8
  lanes : Vector Lane 8
  deriving DecidableEq, Repr

/-! ### Scheduler (chapter 4) -/

/-- The source of a pulse: a cue slot, or TEST (06 Table 6.2.1). -/
inductive Source
  | slot (id : SlotId)
  | test
  deriving DecidableEq, Repr

/-- Entry reference: the ring entry committed, by its place, with a copy of its tick (04 R66). -/
structure EntryRef where
  slot : SlotId
  place : BitVec 8
  tick : Nat
  deriving DecidableEq, Repr

/-- The fields a STRIKE and a TEST firing share (04 Table 4.1.1). -/
structure Shot where
  channel : ChannelId
  rail : RailId
  lane : Lane
  velocity : Nat
  width : Nat
  charge : Nat
  deriving DecidableEq, Repr

/-- The kind of a firing and the kind's fields (04 Table 4.1.1). -/
inductive FiringKind
  | strike (entry : EntryRef) (pitch : Nat) (group : GroupId) (shot : Shot)
  | test (shot : Shot)
  | hold (entry : EntryRef) (channel : HoldId) (on : Bool)
  | rotor (entry : EntryRef) (channel : RotorId) (target : Nat)
  | mark (entry : EntryRef) (number : Nat)
  | ending (entry : EntryRef)
  deriving DecidableEq, Repr

/-- WAITING, or RAIL_WAIT with its late expiry, which a WAITING firing does not have (04 R65, R66). -/
inductive FiringState
  | waiting
  | railWait (expiry : Time)
  deriving DecidableEq, Repr

/-- Firing record (04 R66). -/
structure Firing where
  number : BitVec 32
  fireTime : Time
  state : FiringState
  kind : FiringKind
  deriving DecidableEq, Repr

/-- Lateness statistics (04 R86, Table 4.6.1). -/
structure Statistics where
  lateBegins : Nat
  maxLateness : Nat
  skippedUnmapped : Nat
  skippedLate : Nat
  skippedBusy : Nat
  expired : Nat
  deriving DecidableEq, Repr

/-- Last-mark record (04 R80). -/
structure LastMark where
  slot : SlotId
  number : Nat
  showTime : Time
  deriving DecidableEq, Repr

structure Scheduler where
  fireList : List Firing
  placementCounter : BitVec 32
  lateLimitsMs : Vector Nat 2
  stats : Statistics
  lastMark : Option LastMark
  deriving DecidableEq, Repr

/-! ### Rail arbiter (chapter 5) -/

/-- The 64 phase entries: a rail, or `none` for IDLE (05 R90). -/
abbrev PhaseTable := Vector (Option RailId) 64

/-- The pending table: EMPTY holds no entries (05 R91). -/
inductive PendingTable
  | empty
  | loading (entries : PhaseTable)
  | committed (entries : PhaseTable)
  deriving DecidableEq, Repr

/-- Rail record (05 R96, Table 5.3.1). -/
structure Rail where
  limit : Nat
  drain : Nat
  accumulator : Nat
  standingLoad : Nat
  near : Bool
  latch : Bool
  deriving DecidableEq, Repr

/-- Rail arbiter. `lastPhaseStart`: the part time of the phase start taken last (05 R89, R95), none before the
first. -/
structure RailArbiter where
  table : PhaseTable
  pendingTable : PendingTable
  rails : Vector Rail 4
  lastPhaseStart : Option Nat
  deriving DecidableEq, Repr

/-! ### Drive unit (chapter 6) -/

/-- A pulse as it is granted: width, source, fire time (06 Table 6.2.1). -/
structure Pulse where
  width : Nat
  source : Source
  fireTime : Time
  deriving DecidableEq, Repr

/-- A pulse in drive (06 Table 6.2.1). -/
structure DrivenPulse where
  pulse : Pulse
  beginTime : Time
  endTime : Time
  deriving DecidableEq, Repr

/-- IDLE, DRIVING with its pulse in drive, or RECOVER (06 R109, R110). -/
inductive ChannelState
  | idle
  | driving (pulse : DrivenPulse)
  | recover
  deriving DecidableEq, Repr

inductive SenseResult
  | none | opened | shorted
  deriving DecidableEq, Repr

/-- Strike channel record (06 R109, Table 6.2.1). `lastWidth`: the width of the last pulse that drove on the
channel, 0 if none has (06 R115 step 5; log 13). -/
structure StrikeChannel where
  rail : RailId
  currentClass : Nat
  recoveryMs : Nat
  state : ChannelState
  nextPulse : Option Pulse
  fenced : Bool
  group : Option GroupId
  lastPulseEnd : Option Time
  readyTime : Time
  lastSense : SenseResult
  pulseCount : BitVec 16
  lastWidth : Nat
  deriving DecidableEq, Repr

/-- Hold channel record (06 R121, Table 6.3.1). -/
structure HoldChannel where
  rail : RailId
  load : Nat
  on : Bool
  deriving DecidableEq, Repr

/-- Rotor channel record (06 R123, Table 6.4.1). `timer`: the next expiry while running. -/
structure RotorChannel where
  rail : RailId
  load : Nat
  rampStep : Nat
  target : Nat
  current : Nat
  hushRamp : Bool
  timer : Option Time
  deriving DecidableEq, Repr

structure DriveUnit where
  strikes : Vector StrikeChannel 96
  holds : Vector HoldChannel 4
  rotors : Vector RotorChannel 2
  deriving DecidableEq, Repr

/-! ### Section control (chapter 7) -/

inductive SectionState
  | quiet | playing | paused | hushing | service | halted
  deriving DecidableEq, Repr

inductive HushTarget
  | quiet | service
  deriving DecidableEq, Repr

inductive Takeover
  | none | claiming | held
  deriving DecidableEq, Repr

/-- Section record (07 R130, Table 7.1.3). `silenceTimer`: the pendant silence timer's expiry while running. -/
structure SectionRecord where
  state : SectionState
  hushTarget : HushTarget
  haltPending : Bool
  takeover : Takeover
  breakHush : Bool
  silenceTimer : Option Time
  deriving DecidableEq, Repr

/-! ### Fault monitor (chapter 8) -/

/-- The thirteen error kinds (08 Table 8.1.1), in the order of their numbers. -/
inductive ErrorKind
  | linkCheck | linkFraming | linkTruncated | linkOverrun | replyLost | pitchUnmapped | strikeLate
  | strikeBusy | railOverload | driveOpen | driveShort | clockSlip | pendantLost
  deriving DecidableEq, Repr

inductive Severity
  | advisory | nonfatal | fatal
  deriving DecidableEq, Repr

/-- Kind record (08 R147). -/
structure KindRecord where
  status : Bool
  masked : Bool
  severity : Severity
  count : Nat
  deriving DecidableEq, Repr

/-- Origin of an occurrence (08 Table 8.2.1). -/
inductive Origin
  | link (id : Link)
  | cue (slot : SlotId)
  | channel (id : ChannelId)
  | rail (id : RailId)
  | clock
  deriving DecidableEq, Repr

/-- The note an error is about: slot, tick, pitch as written (08 Table 8.2.2). -/
structure NoteDetail where
  slot : SlotId
  tick : Nat
  pitch : Nat
  deriving DecidableEq, Repr

/-- Detail by kind group (08 R152, Table 8.2.2). An absent field is `none`. -/
inductive Detail
  | link (address length : Option Byte) (bytes : List Byte)
  | strike (note : Option NoteDetail) (group : Option GroupId) (channel : Option ChannelId)
      (lateness : Option Nat)
  | drive (channel : ChannelId) (width : Nat)
  | rail (accumulator limit : Nat)
  | clock (difference offset : Int)
  | nothing
  deriving DecidableEq, Repr

/-- An error occurrence as the detecting block delivers it (08 R148). -/
structure Occurrence where
  kind : ErrorKind
  origin : Origin
  detail : Detail
  deriving DecidableEq, Repr

/-- What a capture describes: an error kind, or the strap notice (08 R151, R153). -/
inductive CaptureKind
  | error (kind : ErrorKind)
  | strapNotice
  deriving DecidableEq, Repr

/-- Capture record while valid (08 R151, Table 8.2.1). -/
structure CaptureRecord where
  kind : CaptureKind
  severity : Severity
  partTime : Time
  showTime : Time
  origin : Origin
  detail : Detail
  more : Bool
  moreCount : Nat
  deriving DecidableEq, Repr

/-- Attention flags by name (08 Table 8.4.1). -/
inductive AttentionFlag
  | fatal | nonfatal | advisory | cueLow | cueDone | cueMark | preempt | hushDone | takeover
  | tableSwitched | underrun | restarted | pendantCall (n : Fin 4)
  deriving DecidableEq, Repr

/-- Fault monitor: kind records by number, the capture record (`none` while invalid), the attention flags and
their mask as sets by bit number (08 R160, 10 R180). `fatalDue` is the model's own (log 12): a fatal cause was
raised in the event in progress and is delivered at its end (08 R149). -/
structure FaultMonitor where
  kinds : Vector KindRecord 13
  capture : Option CaptureRecord
  flags : BitVec 16
  mask : BitVec 16
  fatalDue : Bool
  deriving DecidableEq, Repr

/-! ### Links (chapter 9) -/

/-- The frame in assembly (09 R168). -/
structure Assembly where
  address : Byte
  length : Option Byte
  body : List Byte
  check : Byte
  deriving DecidableEq, Repr

/-- HUNT, COLLECT with its frame in assembly, or SKIP (09 R168). -/
inductive ReceiverState
  | hunt
  | collect (frame : Assembly)
  | skip
  deriving DecidableEq, Repr

/-- An accepted frame in a frame buffer (09 R173). -/
structure BufferedFrame where
  address : Byte
  body : List Byte
  completed : Time
  deriving DecidableEq, Repr

/-- A reply frame: its address and body (09 R175); its length and check follow. -/
structure ReplyFrame where
  address : Byte
  body : List Byte
  deriving DecidableEq, Repr

/-- What the shifter is transmitting, and since when (09 R176). -/
structure Transmission where
  frame : ReplyFrame
  since : Time
  deriving DecidableEq, Repr

/-- One link: receiver record (09 R168), frame buffers with the oldest frame first and the time the oldest was
presented (09 R173), reply slot and reply shifter (09 R176). The cause latch is the show link's only. -/
structure LinkUnit where
  receiver : ReceiverState
  breakFlag : Bool
  spaceStart : Option Time
  causeLatch : Bool
  buffers : List BufferedFrame
  presentedAt : Option Time
  replySlot : Option ReplyFrame
  shifter : Option Transmission
  deriving DecidableEq, Repr

/-- The show link's own address and rate, as read from the straps (09 R165), and the eight exchange words, which
the show link keeps (09 R178). -/
structure ShowLinkSettings where
  ownAddress : BitVec 5
  rate : BitVec 2
  exchange : Vector (BitVec 16) 8
  deriving DecidableEq, Repr

/-! ### The whole part -/

/-- The state of the part. `freeCount` (the index of the next free value, log 2 and 9) and `pending` (the queue
of commands, oldest first) are the model's own. -/
structure State where
  partTime : Nat
  cue : CueEngine
  arb : CueArbiter
  pitch : PitchMap
  sched : Scheduler
  rail : RailArbiter
  drive : DriveUnit
  sect : SectionRecord
  fault : FaultMonitor
  showUnit : LinkUnit
  serviceUnit : LinkUnit
  settings : ShowLinkSettings
  freeCount : Nat
  pending : List Instr
  deriving DecidableEq, Repr

/-- No command of this part stops it: every error the manual describes is state of the fault monitor (08 R148).
So there is no fault reason; the type is empty (safe: nothing is cut short). -/
inductive Fault
  deriving DecidableEq, Repr

/-- Why a command was not run. -/
inductive Refusal
  /-- Raised by an arm of `exec` whose command has no meaning yet; safe, since nothing is then claimed of it. No
  arm raises it now. -/
  | notModelled (mnemonic : String)
  deriving DecidableEq, Repr

/-! ### Power-on values -/

/-- An empty, open ring with all cursors 0 (01 Table 1.1.1, R3). -/
def Ring.powerOn : Ring := { release := 0, retained := [], unplayed := [], closed := false }

/-- 500,000 µs per beat, bar origin 0, 4 beats per bar (01 Table 1.1.1). -/
def CommitState.powerOn : CommitState := { tempo := 500000, barOrigin := 0, beatsPerBar := 4 }

/-- 01 Table 1.1.1, last column. -/
def Slot.powerOn : Slot where
  state := .empty
  priority := 0
  rewindMode := .exactMode
  leadInMs := 100
  lowWater := 32
  transposition := 0
  dynamics := 100
  ring := Ring.powerOn
  anchor := .pending 500000
  timing := CommitState.powerOn
  waitingOrder := none
  pause := none

/-- The default curve (03 Table 3.4.2). -/
def Curve.powerOn : Curve :=
  #v[⟨400, 30000⟩, ⟨1000, 20000⟩, ⟨1800, 14000⟩, ⟨2800, 10000⟩, ⟨4000, 8000⟩]

/-- 03 Table 3.1.2. -/
def PitchMap.powerOn : PitchMap where
  windows := Vector.replicate 8 { enabled := false, firstPitch := 0, count := 1, firstGroup := 0 }
  groups := Vector.replicate 48 { members := [], curve := 0, policy := .delay, delayLimitMs := 5 }
  curves := Vector.replicate 8 Curve.powerOn
  lanes := #v[0, 0, 0, 0, 1, 1, 1, 1]

def Statistics.zero : Statistics :=
  { lateBegins := 0, maxLateness := 0, skippedUnmapped := 0, skippedLate := 0, skippedBusy := 0, expired := 0 }

/-- 04 R65, R66, R80, R85, R86. -/
def Scheduler.powerOn : Scheduler where
  fireList := []
  placementCounter := 0
  lateLimitsMs := #v[4, 2]
  stats := Statistics.zero
  lastMark := none

/-- Sixteen times rails 0, 1, 2, 3: phase n names rail n mod 4 (05 R90). -/
def PhaseTable.powerOn : PhaseTable :=
  ⟨⟨(List.range 64).map fun n => some (Fin.ofNat 4 n)⟩, by simp⟩

/-- 05 Table 5.3.1. -/
def Rail.powerOn : Rail :=
  { limit := 4000, drain := 100, accumulator := 0, standingLoad := 0, near := false, latch := false }

/-- 05 Table 5.1.1. -/
def RailArbiter.powerOn : RailArbiter where
  table := PhaseTable.powerOn
  pendingTable := .empty
  rails := Vector.replicate 4 Rail.powerOn
  lastPhaseStart := none

/-- 06 Table 6.2.1, last column. -/
def StrikeChannel.powerOn : StrikeChannel where
  rail := 0
  currentClass := 1
  recoveryMs := 20
  state := .idle
  nextPulse := none
  fenced := false
  group := none
  lastPulseEnd := none
  readyTime := 0
  lastSense := .none
  pulseCount := 0
  lastWidth := 0

/-- 06 Tables 6.2.1, 6.3.1 and 6.4.1, last columns. -/
def DriveUnit.powerOn : DriveUnit where
  strikes := Vector.replicate 96 StrikeChannel.powerOn
  holds := Vector.replicate 4 { rail := 0, load := 0, on := false }
  rotors := Vector.replicate 2
    { rail := 0, load := 0, rampStep := 10, target := 0, current := 0, hushRamp := false, timer := none }

/-- 07 Table 7.1.3, last column. -/
def SectionRecord.powerOn : SectionRecord where
  state := .quiet
  hushTarget := .quiet
  haltPending := false
  takeover := .none
  breakHush := true
  silenceTimer := none

/-- A kind record at power-on, with the kind's default severity (08 R147). -/
def KindRecord.powerOn (severity : Severity) : KindRecord :=
  { status := false, masked := false, severity := severity, count := 0 }

/-- The strap notice of a part whose address straps read 31 (08 R153). -/
def CaptureRecord.strapNotice : CaptureRecord where
  kind := .strapNotice
  severity := .nonfatal
  partTime := 0
  showTime := 0
  origin := .link .showLink
  detail := .link (some 31) none []
  more := false
  moreCount := 0

/-- The fault monitor at power-on: default severities (08 Table 8.1.1), RESTARTED set (08 R160), and the strap
notice with NONFATAL when the address straps read 31 (08 R153). -/
def FaultMonitor.powerOn (address : BitVec 5) : FaultMonitor where
  kinds := #v[.powerOn .advisory, .powerOn .advisory, .powerOn .advisory, .powerOn .nonfatal,
    .powerOn .nonfatal, .powerOn .nonfatal, .powerOn .advisory, .powerOn .advisory, .powerOn .nonfatal,
    .powerOn .nonfatal, .powerOn .fatal, .powerOn .advisory, .powerOn .nonfatal]
  capture := if address = 31 then some CaptureRecord.strapNotice else none
  flags := if address = 31 then 0x0802 else 0x0800
  mask := 0
  fatalDue := false

/-- A link at power-on: HUNT, empty buffers, idle reply path (09 R168, R176); the space start is power-on's
moment if the line is then at space. -/
def LinkUnit.powerOn (atSpace : Bool) : LinkUnit where
  receiver := .hunt
  breakFlag := false
  spaceStart := if atSpace then some 0 else none
  causeLatch := false
  buffers := []
  presentedAt := none
  replySlot := none
  shifter := none

/-- The part at power-on or after the reset pin (01 R13, 09 R165): the straps and line levels read then. The
queue of commands and the free-value counter are not the part's, and stay (log 5). -/
def State.powerOn (address : BitVec 5) (rate : BitVec 2) (showAtSpace serviceAtSpace : Bool) (freeCount : Nat)
    (pending : List Instr) : State where
  partTime := 0
  cue := { slots := Vector.replicate 4 Slot.powerOn, syncOffset := 0, horizonMs := 30 }
  arb := { stack := [], waiting := [], baseMask := 0, startSequence := 0 }
  pitch := PitchMap.powerOn
  sched := Scheduler.powerOn
  rail := RailArbiter.powerOn
  drive := DriveUnit.powerOn
  sect := SectionRecord.powerOn
  fault := FaultMonitor.powerOn address
  showUnit := LinkUnit.powerOn showAtSpace
  serviceUnit := LinkUnit.powerOn serviceAtSpace
  settings := { ownAddress := address, rate := rate, exchange := Vector.replicate 8 0 }
  freeCount := freeCount
  pending := pending

/-- The machine right after reset, with the straps of Config (DESIGN CHOICE, log 5), both lines at mark and an
empty queue. -/
def State.reset : State := State.powerOn Config.addressStraps Config.rateStraps false false 0 []

end Sys2Proof.Machine
end

