-- ==== Sys2Proof/Machine/Flags.lean ====
section
/-! DEFINITION. Flag computations: attention flags and line (08 §8.4), near flag, overload latch and effective
limit (05 §5.3), and the outputs that are functions of the state (log 16). -/

namespace Sys2Proof.Machine

/-- 08 Table 8.4.1. -/
def AttentionFlag.number : AttentionFlag → Nat
  | .fatal => 0
  | .nonfatal => 1
  | .advisory => 2
  | .cueLow => 3
  | .cueDone => 4
  | .cueMark => 5
  | .preempt => 6
  | .hushDone => 7
  | .takeover => 8
  | .tableSwitched => 9
  | .underrun => 10
  | .restarted => 11
  | .pendantCall n => 12 + n.val

def AttentionFlag.bit (f : AttentionFlag) : BitVec 16 := 1#16 <<< f.number

/-- The flag of a severity (08 R148 step 4). -/
def Severity.flag : Severity → AttentionFlag
  | .fatal => .fatal
  | .nonfatal => .nonfatal
  | .advisory => .advisory

/-- Whether an attention flag is set. -/
def State.flagSet (s : State) (f : AttentionFlag) : Bool := s.fault.flags &&& f.bit != 0

/-- Setting an attention flag (08 R161); setting one that is set changes nothing. -/
def setFlag (f : AttentionFlag) (s : State) : State :=
  { s with fault.flags := s.fault.flags ||| f.bit }

/-- The attention line is asserted while some set flag has its mask bit clear (08 R160). -/
def attentionLine (m : FaultMonitor) : Bool := m.flags &&& ~~~m.mask != 0

/-- Flags 3 to 11, which SECTION RESET clears (07 R144). -/
def sectionResetFlags : BitVec 16 := 0x0FF8

/-- Three quarters of the limit, rounded down (05 R97). -/
def nearThreshold (limit : Nat) : Nat := limit * 3 / 4

/-- The near flag that an accumulator and a limit give (05 R97). -/
def nearOf (accumulator limit : Nat) : Bool := nearThreshold limit < accumulator

/-- The rail record with its near flag evaluated anew (05 R97). -/
def Rail.withNear (r : Rail) : Rail := { r with near := nearOf r.accumulator r.limit }

/-- The effective limit for admission: half the limit while the overload latch is set (05 R100). -/
def Rail.effectiveLimit (r : Rail) : Nat := if r.latch then r.limit / 2 else r.limit

/-- The accumulator exceeds the limit, the condition that sets the overload latch (05 R98, R101). -/
def Rail.overloaded (r : Rail) : Bool := r.limit < r.accumulator

/-- A strike channel's gate output (06 R110). -/
def StrikeChannel.gate (c : StrikeChannel) : Bool :=
  match c.state with
  | .driving _ => true
  | .idle | .recover => false

/-- A hold channel's output (06 R121). -/
def HoldChannel.output (h : HoldChannel) : Bool := h.on

/-- A rotor channel's output presents its current speed (06 R123, 06 Table 6.1.1). -/
def RotorChannel.output (r : RotorChannel) : Nat := r.current

/-- The part drives the reply line only while its show-link shifter transmits (09 R176). -/
def replyLineDriven (s : State) : Bool := s.showUnit.shifter.isSome

end Sys2Proof.Machine
end

