-- ==== Sys2Proof/Machine/Operands.lean ====
section
/-! DEFINITION. Operand forms: how the fields of request bodies and reply bodies are read from and written to
bytes (chapter 10), and the codes of coded values (10 Table 10.1.1). -/

namespace Sys2Proof.Machine

/-! ### Numbers, most significant byte first (10 R180) -/

def u16 (a b : Byte) : Nat := a.toNat * 256 + b.toNat
def u24 (a b c : Byte) : Nat := u16 a b * 256 + c.toNat
def u32 (a b c d : Byte) : Nat := u16 a b * 65536 + u16 c d
def u48 (a b c d e f : Byte) : Nat := u16 a b * 4294967296 + u32 c d e f

/-- A signed byte, two's complement (10 R180). -/
def s8 (a : Byte) : Int := a.toInt

def byteOf (n : Nat) : Byte := BitVec.ofNat 8 n
def signedByte (i : Int) : Byte := BitVec.ofInt 8 i

def be16 (n : Nat) : List Byte := [byteOf (n / 256), byteOf n]
def be24 (n : Nat) : List Byte := byteOf (n / 65536) :: be16 n
def be32 (n : Nat) : List Byte := be16 (n / 65536) ++ be16 n

def bytes48 (v : BitVec 48) : List Byte :=
  [v.extractLsb' 40 8, v.extractLsb' 32 8, v.extractLsb' 24 8, v.extractLsb' 16 8, v.extractLsb' 8 8,
    v.extractLsb' 0 8]

/-- A part time, 6 bytes unsigned (10 R180); a time outside 0 to 2^48 − 1 shows as a free value (log 7). -/
def partTime48 (t : Time) : List Byte :=
  bytes48 (if 0 ≤ t ∧ t < 281474976710656 then BitVec.ofInt 48 t else Config.unencodableTime t)

/-- A show time, a sync offset or a SYNC difference, 6 bytes signed (10 R180); a value outside −2^47 to
2^47 − 1 shows as a free value (log 7). -/
def signed48 (t : Time) : List Byte :=
  bytes48 (if -140737488355328 ≤ t ∧ t < 140737488355328 then BitVec.ofInt 48 t else Config.unencodableTime t)

/-- A flag byte: bit 0 first (10 R185). -/
def flagByte (bits : List Bool) : Byte :=
  byteOf (bits.foldr (fun b n => b.toNat + 2 * n) 0)

/-- A one-byte item that is absent (10 R180). -/
def absent : Byte := 0xFF

def optByte {α : Type} (f : α → Byte) : Option α → Byte
  | some a => f a
  | none => absent

/-- A multi-byte item is sent as 0 when absent (10 R180). -/
def optPartTime (t : Option Time) : List Byte := partTime48 (t.getD 0)

def optTick (t : Option Nat) : List Byte := be32 (t.getD 0)

/-! ### Numbered things and yes/no bytes -/

/-- A number below `n`, or nothing: out of range (00 R1). -/
def toFin (n : Nat) (b : Byte) : Option (Fin n) :=
  if h : b.toNat < n then some ⟨b.toNat, h⟩ else none

def finByte {n : Nat} (i : Fin n) : Byte := byteOf i.val

/-- Yes/no, ON/OFF, set/clear, forced, clear option, mask value and enable: 0 or 1 (10 Table 10.1.1). -/
def yesNo (b : Byte) : Option Bool :=
  if b = 0 then some false else if b = 1 then some true else none

def boolByte (b : Bool) : Byte := if b then 1 else 0

/-- A kind set: bits 13 to 15 are out of range (10 R180). -/
def kindSet (a b : Byte) : Option (BitVec 13) :=
  if u16 a b < 8192 then some (BitVec.ofNat 13 (u16 a b)) else none

/-- A flag set (10 R180). -/
def flagSetOf (a b : Byte) : BitVec 16 := BitVec.ofNat 16 (u16 a b)

def setBytes (v : BitVec 16) : List Byte := be16 v.toNat

/-- All bytes decoded, or nothing if one is out of range. -/
def decodeAll {α : Type} (f : Byte → Option α) : List Byte → Option (List α)
  | [] => some []
  | b :: rest =>
    match f b, decodeAll f rest with
    | some a, some as => some (a :: as)
    | _, _ => none

/-! ### Codes of coded values (10 Table 10.1.1) -/

def RewindMode.ofCode (b : Byte) : Option RewindMode :=
  if b = 0 then some .exactMode else if b = 1 then some .beatMode else if b = 2 then some .barMode else none

def RewindMode.code : RewindMode → Byte
  | .exactMode => 0
  | .beatMode => 1
  | .barMode => 2

def SlotState.code : SlotState → Byte
  | .empty => 0
  | .loaded => 1
  | .waiting => 2
  | .sounding => 3
  | .paused => 4
  | .suspended => 5

def FreezePoint.code : FreezePoint → Byte
  | .entry => 0
  | .tail => 1
  | .none => 2

def CommitOutcome.code : CommitOutcome → Byte
  | .fired => 0
  | .applied => 1
  | .skippedUnmapped => 2
  | .skippedLate => 3
  | .skippedBusy => 4

def BusyPolicy.ofCode (b : Byte) : Option BusyPolicy :=
  if b = 0 then some .delay else if b = 1 then some .drop else none

def BusyPolicy.code : BusyPolicy → Byte
  | .delay => 0
  | .drop => 1

def FiringKind.code : FiringKind → Byte
  | .strike _ _ _ _ => 1
  | .test _ => 2
  | .hold _ _ _ => 3
  | .rotor _ _ _ => 4
  | .mark _ _ => 5
  | .ending _ => 6

/-- The byte of a firing's state in READ FIRE LIST: Table 10.1.1 gives no code for it, so it is a free value
(log 19). -/
def FiringState.code : FiringState → Byte
  | .waiting => Config.firingStateCode false
  | .railWait _ => Config.firingStateCode true

/-- A phase entry: rail 0 to 3, or 4 for IDLE. -/
def phaseEntry (b : Byte) : Option (Option RailId) :=
  if b = 4 then some none else (toFin 4 b).map some

def phaseCode : Option RailId → Byte
  | some r => finByte r
  | none => 4

def PendingTable.code : PendingTable → Byte
  | .empty => 0
  | .loading _ => 1
  | .committed _ => 2

def ChannelState.code : ChannelState → Byte
  | .idle => 0
  | .driving _ => 1
  | .recover => 2

def SenseResult.code : SenseResult → Byte
  | .none => 0
  | .opened => 1
  | .shorted => 2

def SectionState.code : SectionState → Byte
  | .quiet => 0
  | .playing => 1
  | .paused => 2
  | .hushing => 3
  | .service => 4
  | .halted => 5

def HushTarget.code : HushTarget → Byte
  | .quiet => 0
  | .service => 1

def Takeover.code : Takeover → Byte
  | .none => 0
  | .claiming => 1
  | .held => 2

def Severity.ofCode (b : Byte) : Option Severity :=
  if b = 0 then some .advisory else if b = 1 then some .nonfatal else if b = 2 then some .fatal else none

def Severity.code : Severity → Byte
  | .advisory => 0
  | .nonfatal => 1
  | .fatal => 2

def Origin.typeCode : Origin → Byte
  | .link .showLink => 0
  | .link .servicePort => 1
  | .cue _ => 2
  | .channel _ => 3
  | .rail _ => 4
  | .clock => 5

/-- Slot, channel or rail; 0 for the others (10 Table 10.3.3). -/
def Origin.number : Origin → Byte
  | .cue k => finByte k
  | .channel c => finByte c
  | .rail r => finByte r
  | .link _ => 0
  | .clock => 0

def Source.code : Source → Byte
  | .slot k => finByte k
  | .test => 4

/-- The number of an error kind (08 Table 8.1.1). -/
def ErrorKind.number : ErrorKind → Fin 13
  | .linkCheck => 0
  | .linkFraming => 1
  | .linkTruncated => 2
  | .linkOverrun => 3
  | .replyLost => 4
  | .pitchUnmapped => 5
  | .strikeLate => 6
  | .strikeBusy => 7
  | .railOverload => 8
  | .driveOpen => 9
  | .driveShort => 10
  | .clockSlip => 11
  | .pendantLost => 12

/-- An error kind's code; FFh for the strap notice. -/
def CaptureKind.code : CaptureKind → Byte
  | .error k => finByte k.number
  | .strapNotice => 0xFF

/-- READ CHANNEL's designation: strike 0–95, hold 96–99, rotor 100–101. -/
inductive Designation
  | strike (channel : ChannelId)
  | hold (channel : HoldId)
  | rotor (channel : RotorId)
  deriving DecidableEq, Repr

def designation (b : Byte) : Option Designation :=
  match toFin 96 b, toFin 4 (b - 96), toFin 2 (b - 100) with
  | some c, _, _ => some (.strike c)
  | none, some h, _ => some (.hold h)
  | none, none, some m => some (.rotor m)
  | none, none, none => none

/-! ### Event records (10 R182) -/

/-- The fields of an event kind, or nothing if the kind or a field is out of range (01 R7, 10 Table 10.2.3). -/
def eventData (kind a b c : Byte) : Option EventData :=
  match kind.toNat with
  | 1 => match toFin 8 c with
    | some cls => if a.toNat ≤ 127 ∧ 1 ≤ b.toNat ∧ b.toNat ≤ 127 then some (.note a.toNat b.toNat cls) else none
    | none => none
  | 2 => match toFin 4 a, yesNo b with
    | some h, some on => some (.hold h on)
    | _, _ => none
  | 3 => match toFin 2 a with
    | some m => if b.toNat ≤ 120 then some (.rotor m b.toNat) else none
    | none => none
  | 4 => if 200000 ≤ u24 a b c ∧ u24 a b c ≤ 2000000 then some (.tempo (u24 a b c)) else none
  | 5 => if 1 ≤ a.toNat ∧ a.toNat ≤ 16 then some (.meter a.toNat) else none
  | 6 => some (.mark a.toNat)
  | 7 => some .ending
  | _ => none

/-- The event records of an EVENTS body, each read or out of range. -/
def eventRecords : List Byte → List (Option Event)
  | t3 :: t2 :: t1 :: t0 :: kind :: a :: b :: c :: rest =>
    (eventData kind a b c).map (fun d => { tick := u32 t3 t2 t1 t0, data := d }) :: eventRecords rest
  | _ => []

/-- Every record read, or nothing. -/
def allEvents : List (Option Event) → Option (List Event)
  | [] => some []
  | none :: _ => none
  | some e :: rest => (allEvents rest).map (e :: ·)

/-- An entry in the 8-byte form, unused bytes 0 (10 R182). -/
def Event.bytes (e : Event) : List Byte :=
  be32 e.tick ++
    match e.data with
    | .note p v c => [1, byteOf p, byteOf v, finByte c]
    | .hold h on => [2, finByte h, boolByte on, 0]
    | .rotor m t => [3, finByte m, byteOf t, 0]
    | .tempo t => 4 :: be24 t
    | .meter m => [5, byteOf m, 0, 0]
    | .mark n => [6, byteOf n, 0, 0]
    | .ending => [7, 0, 0, 0]

end Sys2Proof.Machine
end

