-- ==== Sys2Proof/Machine/Ops.lean ====
section
/-! DEFINITION. The named operations that several blocks share: the two clocks (01 R13), changes of one record,
error occurrences (08 R148), the frame check (09 R167) and the order of checks that every request begins with. -/

namespace Sys2Proof.Machine

/-! ### Clocks -/

/-- Part time now (00 R1). -/
def State.now (s : State) : Time := s.partTime

/-- Show time now: part time plus the sync offset (01 R13). -/
def State.showNow (s : State) : Time := s.now + s.cue.syncOffset

/-! ### Changes of one record -/

def updSlot (k : SlotId) (f : Slot → Slot) (s : State) : State :=
  { s with cue.slots := upd s.cue.slots k f }

def updRail (r : RailId) (f : Rail → Rail) (s : State) : State :=
  { s with rail.rails := upd s.rail.rails r f }

def updStrike (c : ChannelId) (f : StrikeChannel → StrikeChannel) (s : State) : State :=
  { s with drive.strikes := upd s.drive.strikes c f }

def updHold (h : HoldId) (f : HoldChannel → HoldChannel) (s : State) : State :=
  { s with drive.holds := upd s.drive.holds h f }

def updRotor (m : RotorId) (f : RotorChannel → RotorChannel) (s : State) : State :=
  { s with drive.rotors := upd s.drive.rotors m f }

/-- The unit of a link. -/
def State.unit (s : State) : Link → LinkUnit
  | .showLink => s.showUnit
  | .servicePort => s.serviceUnit

def updUnit (l : Link) (f : LinkUnit → LinkUnit) (s : State) : State :=
  match l with
  | .showLink => { s with showUnit := f s.showUnit }
  | .servicePort => { s with serviceUnit := f s.serviceUnit }

/-- A count that stops at its maximum (00 R1). -/
def saturate (max n : Nat) : Nat := min max n

/-- Every number below `n`, in rising order. -/
def allFin (n : Nat) : List (Fin n) := List.finRange n

/-! ### Error occurrences (08 R148) -/

/-- Step 1: status and count. -/
def KindRecord.occurred (k : KindRecord) : KindRecord :=
  { k with status := true, count := saturate 65535 (k.count + 1) }

/-- Step 3: an invalid capture is filled; a valid one counts one more. -/
def captureOf (o : Occurrence) (severity : Severity) (s : State) : CaptureRecord :=
  match s.fault.capture with
  | none =>
    { kind := .error o.kind, severity := severity, partTime := s.now, showTime := s.showNow,
      origin := o.origin, detail := o.detail, more := false, moreCount := 0 }
  | some c => { c with more := true, moreCount := saturate 65535 (c.moreCount + 1) }

/-- An error occurrence: status and count; unless the kind is masked, capture, severity flag and, if FATAL, the
fatal cause, which is delivered when the event has completed its own steps (08 R148, R149). -/
def raise (o : Occurrence) (s : State) : State :=
  let k := s.fault.kinds[o.kind.number]
  let counted := upd s.fault.kinds o.kind.number KindRecord.occurred
  if k.masked then
    { s with fault.kinds := counted }
  else
    { s with fault := { s.fault with
        kinds := counted
        capture := some (captureOf o k.severity s)
        flags := s.fault.flags ||| k.severity.flag.bit
        fatalDue := s.fault.fatalDue || k.severity == .fatal } }

/-- The lateness a detail holds, saturating (08 R152). -/
def latenessDetail (t : Time) : Nat := saturate 4294967295 t.toNat

/-- A kind that answers RELEASE and CLEAR HALT: unmasked, FATAL, with its status set (08 R147). -/
def KindRecord.holdsHalt (k : KindRecord) : Bool :=
  !k.masked && k.severity == .fatal && k.status

/-- The lowest unmasked kind of FATAL severity whose status is set (07 R143). -/
def haltingKind (m : FaultMonitor) : Option (Fin 13) :=
  (allFin 13).find? fun i => m.kinds[i].holdsHalt

/-! ### The frame check (09 R167) -/

/-- One shift of the running check: a bit leaving the top brings in the polynomial 07h. -/
def checkShift (x : Byte) : Byte := if x.msb then (x <<< 1) ^^^ 0x07 else x <<< 1

/-- The running check after one more byte. -/
def checkByte (check b : Byte) : Byte :=
  checkShift (checkShift (checkShift (checkShift (checkShift (checkShift (checkShift
    (checkShift (check ^^^ b))))))))

/-- The check of a whole frame: address value, length, body. -/
def frameCheck (address : Byte) (body : List Byte) : Byte :=
  (address :: byteOf body.length :: body).foldl checkByte 0

/-! ### Characters on a line (09 R166) -/

/-- A character: its marker, 1 for an address character, and its 8 data bits (09 R166). -/
structure Character where
  marker : Bool
  data : Byte
  deriving DecidableEq, Repr

/-- The 11 bits of a character, the first sent as bit 0, a line at mark as 1: the start bit at space, the data bits
with the least significant first, the marker, and the stop bit at mark (09 R166). That a 1 of the data or the marker
is a bit at mark is PRESUMED (log 29). -/
def Character.bits (c : Character) : BitVec 11 := 1#1 ++ BitVec.ofBool c.marker ++ c.data ++ 0#1

/-- The character command that 11 bits sampled on a link's line make, behind a start bit: a framing error if the stop
bit is at space, whatever the marker; else an address or a data character by its marker (09 R166, log 29). -/
def receivedCharacter (l : Link) (bits : BitVec 11) : Instr :=
  if bits.getLsbD 10 then
    if bits.getLsbD 9 then .addressCharacter l (bits.extractLsb' 1 8) else .dataCharacter l (bits.extractLsb' 1 8)
  else .framingError l

/-- The characters of a reply frame in the order they are sent: the address character, and then data characters
(09 Table 9.2.1, R175). -/
def ReplyFrame.characters (r : ReplyFrame) : List Character :=
  { marker := true, data := r.address } ::
    (byteOf r.body.length :: r.body ++ [frameCheck r.address r.body]).map fun b => { marker := false, data := b }

/-- The level of the line `n` bit times after a frame began on it, its characters back to back; at mark behind them
(09 R166, R176). -/
def ReplyFrame.levelAt (r : ReplyFrame) (n : Nat) : Bool :=
  match r.characters[n / 11]? with
  | some c => c.bits.getLsbD (n % 11)
  | none => true

/-! ### Replies and the checks that come first -/

/-- Reply codes (09 Table 9.3.2). -/
inductive ReplyCode
  | done | unknown | length | range | state | taken | full | order | conflict
  deriving DecidableEq, Repr

/-- 10 Table 10.2.2. -/
def ReplyCode.byte : ReplyCode → Byte
  | .done => 0
  | .unknown => 1
  | .length => 2
  | .range => 3
  | .state => 4
  | .taken => 5
  | .full => 6
  | .order => 7
  | .conflict => 8

/-- What a request's rule answers: the code and the data (09 R175). -/
structure Reply where
  code : ReplyCode
  data : List Byte
  deriving DecidableEq, Repr

def Reply.done (data : List Byte) : Reply := { code := .done, data := data }
def Reply.refuse (code : ReplyCode) : Reply := { code := code, data := [] }

/-- What an owning block does with a request: the next state and the reply. -/
abbrev Action := State → State × Reply

/-- The request comes on the show link while the section is SERVICE (07 R142). -/
def State.takenOn (s : State) (l : Link) : Bool := l == .showLink && s.sect.state == .service

/-- A refusal changes no state (09 R174). -/
def refuse (code : ReplyCode) : Action := fun s => (s, Reply.refuse code)

/-- The first check of every request that configures the part or changes cues or section (07 R142). -/
def unlessTaken (l : Link) (act : Action) : Action := fun s =>
  if s.takenOn l then refuse .taken s else act s

/-- The state check of configuration requests (03 R48 step 3, 06 R119 step 3). -/
def State.configurable (s : State) : Bool :=
  match s.sect.state with
  | .quiet | .service | .halted => true
  | .playing | .paused | .hushing => false

end Sys2Proof.Machine
end

