-- ==== Sys2Proof/Machine/DriveOps.lean ====
section
/-! DEFINITION. Shared operations of the drive unit (chapter 6): pulses begin, are cut and wait in next-pulse
slots; rotors take targets; a hush acts on every channel. -/

namespace Sys2Proof.Machine

/-- Recovery in µs. -/
def StrikeChannel.recoveryTime (c : StrikeChannel) : Time := (c.recoveryMs : Int) * 1000

def StrikeChannel.driving (c : StrikeChannel) : Bool := c.gate

/-- A pulse stops driving at time `t`: the last pulse end is `t`, the ready time `t` plus the recovery, the
channel is RECOVER (06 R113, R116). -/
def StrikeChannel.stopAt (t : Time) (c : StrikeChannel) : StrikeChannel :=
  { c with state := .recover, lastPulseEnd := some t, readyTime := t + c.recoveryTime }

/-- A cut: a DRIVING channel stops now, any other is left alone (06 R116). -/
def StrikeChannel.cut (now : Time) (c : StrikeChannel) : StrikeChannel :=
  match c.state with
  | .driving _ => c.stopAt now
  | .idle | .recover => c

/-- Cut, empty the next-pulse slot and fence (06 R117, and R115 steps 1 to 3). -/
def StrikeChannel.takeOut (now : Time) (c : StrikeChannel) : StrikeChannel :=
  { c.cut now with nextPulse := none, fenced := true }

/-- The channel's own record of a pulse begin (06 R112). -/
def StrikeChannel.beginAt (now : Time) (p : Pulse) (noCurrent : Bool) (c : StrikeChannel) : StrikeChannel :=
  { c with
    state := .driving { pulse := p, beginTime := now, endTime := now + p.width }
    pulseCount := c.pulseCount + 1
    lastSense := if noCurrent then .opened else .none
    lastWidth := p.width }

/-- The lateness of a STRIKE pulse's begin: late begins above 250 µs, and the greatest lateness (04 R77, R86). -/
def Statistics.begun (lateness : Nat) (x : Statistics) : Statistics :=
  { x with
    lateBegins := if 250 < lateness then saturate 65535 (x.lateBegins + 1) else x.lateBegins
    maxLateness := max x.maxLateness (saturate 4294967295 lateness) }

/-- The scheduler takes the lateness of a pulse of a cue; TEST pulses are not measured (04 R77). -/
def recordBegin (p : Pulse) (s : State) : State :=
  match p.source with
  | .slot _ => { s with sched.stats := s.sched.stats.begun (s.now - p.fireTime).toNat }
  | .test => s

/-- No coil current at a begin raises DRIVE_OPEN (06 R112). -/
def raiseOpen (c : ChannelId) (width : Nat) (noCurrent : Bool) (s : State) : State :=
  if noCurrent then
    raise { kind := .driveOpen, origin := .channel c, detail := .drive c width } s
  else s

/-- A pulse begins on a channel, in one event (06 R112). -/
def beginPulse (c : ChannelId) (p : Pulse) (noCurrent : Bool) (s : State) : State :=
  recordBegin p (raiseOpen c p.width noCurrent (updStrike c (.beginAt s.now p noCurrent) s))

/-- A grant reaches the drive unit: it begins at once on an IDLE channel and fills the next-pulse slot of a
RECOVER one (06 R111, 05 R107). A DRIVING channel receives no grant (05 R106). -/
def grantPulse (c : ChannelId) (p : Pulse) (noCurrent : Bool) (s : State) : State :=
  match s.drive.strikes[c].state with
  | .idle => beginPulse c p noCurrent s
  | .recover => updStrike c (fun x => { x with nextPulse := some p }) s
  | .driving _ => s

/-- The recovery ends: the pulse in the next-pulse slot begins, or the channel becomes IDLE (06 R114). -/
def endRecovery (c : ChannelId) (noCurrent : Bool) (s : State) : State :=
  match s.drive.strikes[c].nextPulse with
  | some p => beginPulse c p noCurrent (updStrike c (fun x => { x with nextPulse := none }) s)
  | none => updStrike c (fun x => { x with state := .idle }) s

/-- Whether a pulse waits in the slot for one source. -/
def StrikeChannel.holdsPulseOf (src : Source) (c : StrikeChannel) : Bool :=
  match c.nextPulse with
  | some p => p.source == src
  | none => false

/-- The next-pulse slot is emptied of pulses of a source (04 R82 step 2, R83). -/
def StrikeChannel.emptySlotOf (src : Source) (c : StrikeChannel) : StrikeChannel :=
  if c.holdsPulseOf src then { c with nextPulse := none } else c

/-- Empties TEST pulses from the slot and cuts a TEST pulse that is driving (04 R83 at RELEASE). -/
def StrikeChannel.dropTest (now : Time) (c : StrikeChannel) : StrikeChannel :=
  let emptied := c.emptySlotOf .test
  match c.state with
  | .driving p => if p.pulse.source == .test then emptied.cut now else emptied
  | .idle | .recover => emptied

/-! ### Holds and rotors -/

/-- A hold channel is switched to a state (06 R121). -/
def switchHold (h : HoldId) (on : Bool) (s : State) : State :=
  updHold h (fun x => { x with on := on }) s

/-- A rotor's target is set: the hush ramp clears, and a stopped timer starts if the target differs from the
current speed (06 R124). -/
def RotorChannel.withTarget (now : Time) (target : Nat) (m : RotorChannel) : RotorChannel :=
  { m with
    target := target
    hushRamp := false
    timer := if target ≠ m.current ∧ m.timer = none then some (now + 100000) else m.timer }

def setRotorTarget (m : RotorId) (target : Nat) (s : State) : State :=
  updRotor m (.withTarget s.now target) s

/-- One step of the current speed toward the target (06 R125). -/
def RotorChannel.stepped (m : RotorChannel) : Nat :=
  let step := if m.hushRamp then 40 else m.rampStep
  if m.current ≤ m.target then min m.target (m.current + step) else max m.target (m.current - step)

/-- A ramp timer expiry at time `t` (06 R125). -/
def RotorChannel.ramp (t : Time) (m : RotorChannel) : RotorChannel :=
  if m.stepped = m.target then
    { m with current := m.stepped, hushRamp := false, timer := none }
  else
    { m with current := m.stepped, timer := some (t + 100000) }

/-- A hush on a rotor (06 R127 step 3). -/
def RotorChannel.hushed (now : Time) (m : RotorChannel) : RotorChannel :=
  if m.current = 0 then
    { m with target := 0, hushRamp := false, timer := none }
  else
    { m with
      target := 0
      hushRamp := true
      timer := if m.timer = none then some (now + 100000) else m.timer }

/-! ### Every channel at once -/

/-- The drive unit at the start of a hush (06 R127): pulses cut and slots emptied, holds OFF, rotors to rest. -/
def DriveUnit.hushed (now : Time) (d : DriveUnit) : DriveUnit where
  strikes := mapAll (fun c => { c.cut now with nextPulse := none }) d.strikes
  holds := mapAll (fun h => { h with on := false }) d.holds
  rotors := mapAll (.hushed now) d.rotors

/-- Every rotor's current speed is 0 (07 R134). -/
def DriveUnit.rotorsAtRest (d : DriveUnit) : Bool := d.rotors.toList.all fun m => m.current == 0

/-- No strike channel is DRIVING (07 R134). -/
def DriveUnit.silent (d : DriveUnit) : Bool := d.strikes.toList.all fun c => !c.driving

end Sys2Proof.Machine
end

