-- ==== Sys2Proof/Machine/SchedOps.lean ====
section
/-! DEFINITION. Shared operations of the scheduler (chapter 4): placement in the fire list, projection and choice
of a member channel, offers, removal and withdrawal. -/

namespace Sys2Proof.Machine

/-- The capacity of the fire list (04 R65). -/
def fireListSize : Nat := 64

def State.fireListFull (s : State) : Bool := fireListSize ≤ s.sched.fireList.length

/-! ### Views of a firing -/

def FiringKind.source : FiringKind → Source
  | .strike e _ _ _ => .slot e.slot
  | .test _ => .test
  | .hold e _ _ => .slot e.slot
  | .rotor e _ _ => .slot e.slot
  | .mark e _ => .slot e.slot
  | .ending e => .slot e.slot

/-- The fields a STRIKE or a TEST firing carries. -/
def FiringKind.shot? : FiringKind → Option Shot
  | .strike _ _ _ sh => some sh
  | .test sh => some sh
  | .hold _ _ _ | .rotor _ _ _ | .mark _ _ | .ending _ => none

/-- The entry reference of a HOLD, ROTOR, MARK or END firing (04 R66). -/
def FiringKind.actingEntry? : FiringKind → Option EntryRef
  | .hold e _ _ => some e
  | .rotor e _ _ => some e
  | .mark e _ => some e
  | .ending e => some e
  | .strike _ _ _ _ | .test _ => none

def Firing.railWaiting (f : Firing) : Bool :=
  match f.state with
  | .railWait _ => true
  | .waiting => false

/-- The firing is a STRIKE or TEST for the channel (04 R69 step 3). -/
def Firing.isFor (c : ChannelId) (f : Firing) : Bool :=
  match f.kind.shot? with
  | some sh => sh.channel == c
  | none => false

/-! ### The list -/

/-- The position a fire time gives: after every firing at or before it, before every later one (04 R65). -/
def insertFiring (f : Firing) : List Firing → List Firing
  | [] => [f]
  | g :: rest => if g.fireTime ≤ f.fireTime then g :: insertFiring f rest else f :: g :: rest

/-- Change of the fire list. -/
def setFireList (l : List Firing) (s : State) : State := { s with sched.fireList := l }

/-- A firing leaves the list; those behind it keep their order (04 R84). -/
def removeFiring (f : Firing) (s : State) : State := setFireList (s.sched.fireList.erase f) s

/-- One firing of the list is replaced in its place (04 R74). -/
def replaceFiring (f g : Firing) (s : State) : State :=
  setFireList (s.sched.fireList.replace f g) s

/-- The firing that the next placement makes (04 R66, R73). -/
def nextFiring (fireTime : Time) (kind : FiringKind) (s : State) : Firing :=
  { number := s.sched.placementCounter + 1, fireTime := fireTime, state := .waiting, kind := kind }

/-- Placement: the counter advances and the firing enters the list (04 R65, R66, R73). -/
def placeFiring (fireTime : Time) (kind : FiringKind) (s : State) : State :=
  { s with sched := { s.sched with
      placementCounter := s.sched.placementCounter + 1
      fireList := insertFiring (nextFiring fireTime kind s) s.sched.fireList } }

/-- Pulse charge: current class times width in units of 100 µs, rounded up (05 R104, 04 R73). -/
def pulseCharge (currentClass width : Nat) : Nat := currentClass * ((width + 99) / 100)

/-- The shot of a firing for a channel, with the channel's rail and charge as they stand (04 R73, R67). -/
def shotFor (c : ChannelId) (lane : Lane) (velocity width : Nat) (s : State) : Shot :=
  let x := s.drive.strikes[c]
  { channel := c, rail := x.rail, lane := lane, velocity := velocity, width := width,
    charge := pulseCharge x.currentClass width }

/-! ### Choice of a member (04 R69 to R71) -/

/-- Stages 1 and 2 of the projection: the channel and its next-pulse slot (04 R69). -/
def StrikeChannel.freeBase (c : StrikeChannel) : Time :=
  let base := match c.state with
    | .driving p => p.endTime + c.recoveryTime
    | .idle | .recover => c.readyTime
  match c.nextPulse with
  | some p => base + p.width + c.recoveryTime
  | none => base

/-- Stage 3: the greatest of the base and the firings planned for the channel (04 R69). -/
def projectedFree (s : State) (c : ChannelId) : Time :=
  let x := s.drive.strikes[c]
  s.sched.fireList.foldl
    (fun t f => match f.kind.shot? with
      | some sh => if sh.channel = c then max t (f.fireTime + sh.width + x.recoveryTime) else t
      | none => t)
    x.freeBase

/-- The unfenced members with their projected free times, in order of position (04 R68 step 3). -/
def candidates (s : State) (g : Group) : List (ChannelId × Time) :=
  (g.members.filter fun c => !s.drive.strikes[c].fenced).map fun c => (c, projectedFree s c)

/-- The earliest of a list, the first among equals (04 R70, R71). -/
def earliest : List (ChannelId × Time) → Option (ChannelId × Time)
  | [] => none
  | m :: rest =>
    match earliest rest with
    | some n => if n.2 < m.2 then some n else some m
    | none => some m

/-- The member and fire time of a strike offered for fire time `f`, or nothing (04 R70, R71). -/
def chooseMember (g : Group) (f : Time) (members : List (ChannelId × Time)) : Option (ChannelId × Time) :=
  match earliest (members.filter fun m => m.2 ≤ f) with
  | some m => some (m.1, f)
  | none =>
    match g.policy, earliest members with
    | .delay, some m => if m.2 - f ≤ (g.delayLimitMs : Int) * 1000 then some m else none
    | .delay, none => none
    | .drop, _ => none

/-- A strike as the cue engine offers it (04 §4.2). -/
structure Offer where
  entry : EntryRef
  pitch : Nat
  group : GroupId
  lane : Lane
  velocity : Nat
  width : Nat
  fireTime : Time
  deriving DecidableEq, Repr

/-- The late limit of a lane in µs (04 R85). -/
def State.lateLimit (s : State) (lane : Lane) : Time := (s.sched.lateLimitsMs[lane] : Int) * 1000

/-- The error of a note, at its commit or at its late expiry (04 R72, R75). -/
def noteError (kind : ErrorKind) (e : EntryRef) (pitch : Nat) (group : Option GroupId)
    (channel : Option ChannelId) (lateness : Option Time) : Occurrence :=
  { kind := kind, origin := .cue e.slot,
    detail := .strike (some { slot := e.slot, tick := e.tick, pitch := pitch }) group channel
      (lateness.map latenessDetail) }

/-- Skipped late: counted, with STRIKE_LATE (04 R72). -/
def skipLate (o : Offer) (s : State) : State :=
  raise (noteError .strikeLate o.entry o.pitch (some o.group) none (some (s.now - o.fireTime)))
    { s with sched.stats.skippedLate := saturate 65535 (s.sched.stats.skippedLate + 1) }

/-- Skipped busy: counted, with STRIKE_BUSY (04 R72). -/
def skipBusy (o : Offer) (s : State) : State :=
  raise (noteError .strikeBusy o.entry o.pitch (some o.group) none none)
    { s with sched.stats.skippedBusy := saturate 65535 (s.sched.stats.skippedBusy + 1) }

/-- The scheduler takes an offered strike (04 R68): the outcome, and the firing if one was placed. -/
def takeOffer (o : Offer) (s : State) : State × CommitOutcome × Option Firing :=
  if s.lateLimit o.lane < s.now - o.fireTime then
    (skipLate o s, .skippedLate, none)
  else
    let g := s.pitch.groups[o.group]
    match chooseMember g o.fireTime (candidates s g) with
    | some (c, t) =>
      let kind := .strike o.entry o.pitch o.group (shotFor c o.lane o.velocity o.width s)
      (placeFiring t kind s, .fired, some (nextFiring t kind s))
    | none => (skipBusy o s, .skippedBusy, none)

/-! ### Leaving the list -/

/-- The ring places of a slot's HOLD, ROTOR, MARK and END firings that have not acted (02 R34). -/
def actingPlaces (k : SlotId) (s : State) : List (BitVec 8) :=
  s.sched.fireList.filterMap fun f => match f.kind.actingEntry? with
    | some e => if e.slot = k then some e.place else none
    | none => none

/-- Withdrawal of a slot (04 R82): its firings leave the list, its pulses the next-pulse slots. -/
def withdraw (k : SlotId) (s : State) : State :=
  { s with
    sched.fireList := s.sched.fireList.filter fun f => f.kind.source != .slot k
    drive.strikes := mapAll (.emptySlotOf (.slot k)) s.drive.strikes }

/-- Removal at RELEASE: TEST firings and TEST pulses (04 R83, 07 R141 step 1). -/
def removeTests (s : State) : State :=
  { s with
    sched.fireList := s.sched.fireList.filter fun f => f.kind.source != .test
    drive.strikes := mapAll (.dropTest s.now) s.drive.strikes }

/-- A STRIKE or TEST firing reaches its fire time: RAIL_WAIT with its late expiry (04 R74). -/
def Firing.arrived (limit : Time) (f : Firing) : Firing :=
  { f with state := .railWait (f.fireTime + limit) }

end Sys2Proof.Machine
end

