-- ==== Sys2Proof/Machine/PitchOps.lean ====
section
/-! DEFINITION. Translations of the pitch map (chapter 3): pitch to striker group, velocity to pulse width and
flight time. -/

namespace Sys2Proof.Machine

/-- An enabled window holds a pitch (03 R49). -/
def Window.holds (w : Window) (q : Int) : Bool :=
  w.enabled && (w.firstPitch : Int) ≤ q && q < (w.firstPitch + w.count : Nat)

/-- The group number a window maps a pitch to (03 R49). -/
def Window.groupOf (w : Window) (q : Int) : Nat := w.firstGroup + (q - w.firstPitch).toNat

/-- Two enabled windows map at least one of the same pitches (03 R50). -/
def Window.overlaps (v w : Window) : Bool :=
  v.enabled && w.enabled && v.firstPitch < w.firstPitch + w.count && w.firstPitch < v.firstPitch + v.count

/-- The answer of a translation (03 R51, Table 3.2.2). -/
inductive Translation
  | outOfRange
  | noWindow
  | noMembers (window : WindowId) (group : GroupId)
  | mapped (window : WindowId) (group : GroupId)
  deriving DecidableEq, Repr

/-- Translation of a transposed pitch (03 R51). At most one enabled window holds it (03 R49); the table's
constraints keep its group below 48, and a window that broke them would map nothing (log 20). -/
def translate (p : PitchMap) (q : Int) : Translation :=
  if q < 0 ∨ 127 < q then .outOfRange
  else match (allFin 8).find? fun i => p.windows[i].holds q with
    | none => .noWindow
    | some i =>
      if h : p.windows[i].groupOf q < 48 then
        let g : GroupId := ⟨p.windows[i].groupOf q, h⟩
        if p.groups[g].members.isEmpty then .noMembers i g else .mapped i g
      else .noWindow

/-- The group a pitch maps to, if any (03 R51). -/
def mappedGroup (p : PitchMap) (q : Int) : Option GroupId :=
  match translate p q with
  | .mapped _ g => some g
  | .outOfRange | .noWindow | .noMembers _ _ => none

/-- The straight line between two points, truncating toward zero (03 R58). -/
def interpolate (a b v va vb : Nat) : Nat :=
  ((a : Int) + (((b : Int) - a) * ((v : Int) - va)).tdiv ((vb : Int) - va)).toNat

/-- One of the two curves of a curve record at a velocity (03 R58, Table 3.4.3). -/
def curveAt (points : Curve) (value : CurvePoint → Nat) (v : Nat) : Nat :=
  if v < 32 then interpolate (value points[0]) (value points[1]) v 1 32
  else if v < 64 then interpolate (value points[1]) (value points[2]) v 32 64
  else if v < 96 then interpolate (value points[2]) (value points[3]) v 64 96
  else interpolate (value points[3]) (value points[4]) v 96 127

/-- Pulse width of a curve at a velocity (03 R58). -/
def widthAt (c : Curve) (v : Nat) : Nat := curveAt c CurvePoint.width v

/-- Flight time of a curve at a velocity (03 R58). -/
def flightAt (c : Curve) (v : Nat) : Nat := curveAt c CurvePoint.flight v

/-- The effective velocity: scaled by the dynamics and held within 1 to 127 (01 R20 step 4). -/
def effectiveVelocity (velocity dynamics : Nat) : Nat := max 1 (min 127 (velocity * dynamics / 100))

/-- The curve of a group (03 R53). -/
def groupCurve (p : PitchMap) (g : GroupId) : Curve := p.curves[p.groups[g].curve]

/-- The lane of a voice class (03 R61). -/
def laneOf (p : PitchMap) (voiceClass : Fin 8) : Lane := p.lanes[voiceClass]

end Sys2Proof.Machine
end

