-- ==== Sys2Proof/Machine/CueOps.lean ====
section
/-! DEFINITION. Shared operations of the cue engine (chapter 1): the ring's counts and cursors, beat and bar
starts, due and commit times, rewind, freeze points, release and emptying. -/

namespace Sys2Proof.Machine

/-! ### The ring (01 R4) -/

def Ring.occupancy (r : Ring) : Nat := r.retained.length + r.unplayed.length
def Ring.unplayedCount (r : Ring) : Nat := r.unplayed.length
def Ring.freeCount (r : Ring) : Nat := 256 - r.occupancy

/-- The commit cursor's place (01 R4). -/
def Ring.commitCursor (r : Ring) : BitVec 8 := r.release + BitVec.ofNat 8 r.retained.length

/-- The write cursor's place (01 R4). -/
def Ring.writeCursor (r : Ring) : BitVec 8 := r.release + BitVec.ofNat 8 r.occupancy

/-- The tick of the entry at the release cursor. -/
def Ring.releaseTick (r : Ring) : Option Nat :=
  match r.retained, r.unplayed with
  | c :: _, _ => some c.event.tick
  | [], e :: _ => some e.tick
  | [], [] => none

/-- The tick of the entry at the commit cursor. -/
def Ring.commitTick (r : Ring) : Option Nat := r.unplayed.head?.map Event.tick

/-- The tick of the last entry written (01 R10). -/
def Ring.lastTick (r : Ring) : Option Nat :=
  match r.unplayed.getLast?, r.retained.getLast? with
  | some e, _ => some e.tick
  | none, some c => some c.event.tick
  | none, none => none

/-! ### Beat and bar (01 R16) -/

/-- The start of the stretch of `len` ticks, counted from `origin`, that contains `t`. -/
def gridStart (origin len t : Nat) : Nat := origin + (t - origin) / len * len

def CommitState.beatStart (c : CommitState) (t : Nat) : Nat := gridStart c.barOrigin 240 t

def CommitState.barStart (c : CommitState) (t : Nat) : Nat :=
  gridStart c.barOrigin (240 * c.beatsPerBar) t

/-- The tick that a rewind mode makes of a tick with its beat start and bar start (01 R23, 02 R34). -/
def RewindMode.pick (m : RewindMode) (tick beat bar : Nat) : Nat :=
  match m with
  | .exactMode => tick
  | .beatMode => beat
  | .barMode => bar

/-- For a committed entry the values come from its annotation (01 R16). -/
def Committed.floor (m : RewindMode) (c : Committed) : Nat :=
  m.pick c.event.tick c.note.beatStart c.note.barStart

/-- For an uncommitted entry they come from the commit state (01 R16). -/
def Event.floor (m : RewindMode) (t : CommitState) (e : Event) : Nat :=
  m.pick e.tick (t.beatStart e.tick) (t.barStart e.tick)

/-! ### Due times (01 R14) -/

/-- `(t − T) × P / 240` after `S`, the division truncating toward zero. -/
def dueAt (anchorTick : Nat) (showTime : Time) (tempo tick : Nat) : Time :=
  showTime + (((tick : Int) - anchorTick) * tempo).tdiv 240

/-- The due time of a tick under an anchor; none while it is pending (01 R14). -/
def Anchor.due (a : Anchor) (tick : Nat) : Option Time :=
  match a with
  | .set t0 s p => some (dueAt t0 s p tick)
  | .pending _ => none

def Anchor.tempo : Anchor → Nat
  | .pending p => p
  | .set _ _ p => p

/-- Setting an anchor also sets the commit state's tempo (01 R15). -/
def Slot.withAnchor (a : Anchor) (x : Slot) : Slot :=
  { x with anchor := a, timing := { x.timing with tempo := a.tempo } }

/-- Lead-in in µs. -/
def Slot.leadIn (x : Slot) : Time := (x.leadInMs : Int) * 1000

/-! ### Commit time (01 R17) -/

/-- The flight time that enters a head entry's commit time: 0 unless it is a NOTE that maps (03 R63). -/
def headFlight (p : PitchMap) (x : Slot) (e : Event) : Nat :=
  match e.data with
  | .note pitch velocity _ =>
    match mappedGroup p (pitch + x.transposition) with
    | some g => flightAt (groupCurve p g) (effectiveVelocity velocity x.dynamics)
    | none => 0
  | .hold _ _ | .rotor _ _ | .tempo _ | .meter _ | .mark _ | .ending => 0

/-- The entry's commit takes a place in the fire list (01 R19 condition 5). -/
def needsPlace (p : PitchMap) (x : Slot) (e : Event) : Bool :=
  match e.data with
  | .note pitch _ _ => (mappedGroup p (pitch + x.transposition)).isSome
  | .hold _ _ | .rotor _ _ | .mark _ | .ending => true
  | .tempo _ | .meter _ => false

/-- The commit time of an entry, a show time (01 R17). -/
def commitTime (s : State) (x : Slot) (e : Event) : Option Time :=
  (x.anchor.due e.tick).map fun due =>
    due - headFlight s.pitch x e - (s.cue.horizonMs : Int) * 1000

/-- The slot in a given state, the lowest if there were several (02 R28 allows one SOUNDING or PAUSED). -/
def slotIn (st : SlotState) (s : State) : Option SlotId :=
  (allFin 4).find? fun k => s.cue.slots[k].state == st

/-- Conditions 1 to 4 of a commit, of a slot (01 R19). -/
def headDue (s : State) (x : Slot) : Option Event :=
  match x.state, x.ring.unplayed with
  | .sounding, e :: _ =>
    match commitTime s x e with
    | some t => if t ≤ s.showNow then some e else none
    | none => none
  | _, _ => none

/-- The slot whose head entry is to be committed now: all five conditions (01 R19). -/
def commitReady (s : State) : Option SlotId :=
  match slotIn .sounding s with
  | some k =>
    match headDue s s.cue.slots[k] with
    | some e => if needsPlace s.pitch s.cue.slots[k] e && s.fireListFull then none else some k
    | none => none
  | none => none

/-- The head entry's commit waits on condition 5 alone (01 R19, 04 R84). -/
def waitsOnSpace (s : State) : Bool :=
  match slotIn .sounding s with
  | some k =>
    match headDue s s.cue.slots[k] with
    | some e => needsPlace s.pitch s.cue.slots[k] e && s.fireListFull
    | none => false
  | none => false

/-! ### Rewind (01 R6) -/

/-- The retained entries before the first whose tick is at or above the target, and those from it on. -/
def splitAtTick (target : Nat) : List Committed → List Committed × List Committed
  | [] => ([], [])
  | c :: rest =>
    if target ≤ c.event.tick then ([], c :: rest)
    else
      let parts := splitAtTick target rest
      (c :: parts.1, parts.2)

/-- Rewind of the commit cursor to a target tick: the commit state takes the "before" values of the entry at the
new cursor, and every entry passed loses its annotation (01 R6). -/
def Slot.rewind (target : Nat) (x : Slot) : Slot :=
  match splitAtTick target x.ring.retained with
  | (_, []) => x
  | (kept, c :: rest) =>
    { x with
      timing := c.note.before
      ring := { x.ring with
        retained := kept
        unplayed := c.event :: rest.map Committed.event ++ x.ring.unplayed } }

/-! ### Freeze point (02 R34) -/

/-- The first retained entry that is unsounded: its due time is later than now, or its firing, named by its ring
place, was withdrawn without having acted. -/
def firstUnsounded (now : Time) (withdrawn : List (BitVec 8)) (place : BitVec 8) :
    List Committed → Option Committed
  | [] => none
  | c :: rest =>
    if now < c.note.due ∨ place ∈ withdrawn then some c
    else firstUnsounded now withdrawn (place + 1) rest

/-- Freeze point, freeze tick and resume tick of a slot (02 R34). -/
def freezeOf (now : Time) (withdrawn : List (BitVec 8)) (x : Slot) : PauseRecord :=
  match firstUnsounded now withdrawn x.ring.release x.ring.retained with
  | some c =>
    { point := .entry, freezeTick := c.event.tick, resumeTick := some (c.floor x.rewindMode) }
  | none =>
    match x.ring.unplayed, x.ring.retained.getLast? with
    | e :: _, _ =>
      { point := .entry, freezeTick := e.tick, resumeTick := some (e.floor x.rewindMode x.timing) }
    | [], some c =>
      { point := .tail, freezeTick := c.event.tick, resumeTick := some (c.floor x.rewindMode) }
    | [], none => { point := .none, freezeTick := 0, resumeTick := none }

/-- The rewind a freeze asks for: to the freeze tick for ENTRY, none for TAIL and NONE (02 R33, R38). -/
def Slot.rewindToFreeze (f : PauseRecord) (x : Slot) : Slot :=
  match f.point with
  | .entry => x.rewind f.freezeTick
  | .tail | .none => x

/-! ### Release (01 R23) -/

/-- The release floor: of the oldest unsounded entry, or of the last entry written when all have sounded. -/
def releaseFloor (now : Time) (x : Slot) : Nat :=
  match firstUnsounded now [] x.ring.release x.ring.retained, x.ring.unplayed,
      x.ring.retained.getLast? with
  | some c, _, _ => c.floor x.rewindMode
  | none, e :: _, _ => e.floor x.rewindMode x.timing
  | none, [], some c => c.floor x.rewindMode
  | none, [], none => 0

/-- Entries below the floor leave the front of the ring; an unplayed entry is never below it (01 R23). -/
def Slot.releaseEntries (now : Time) (x : Slot) : Slot :=
  let kept := x.ring.retained.dropWhile fun c => c.event.tick < releaseFloor now x
  { x with ring := { x.ring with
      release := x.ring.release + BitVec.ofNat 8 (x.ring.retained.length - kept.length)
      retained := kept } }

/-! ### Notices and emptying -/

/-- The low-water comparison, at a commit and when a slot becomes SOUNDING (01 R24). -/
def noticeLow (k : SlotId) (s : State) : State :=
  let x := s.cue.slots[k]
  if x.ring.unplayedCount < x.lowWater ∧ x.ring.closed = false then setFlag .cueLow s else s

/-- UNDERRUN, at the end of a commit that leaves nothing unplayed in an open ring (01 R24). -/
def noticeUnderrun (k : SlotId) (s : State) : State :=
  let x := s.cue.slots[k]
  if x.ring.unplayedCount = 0 ∧ x.ring.closed = false then setFlag .underrun s else s

/-- An emptied slot record (01 R3): ring, closed flag and anchor at power-on, the arbiter's part absent, the rest
kept (01 R2). An EMPTY slot is not changed. -/
def Slot.emptied (x : Slot) : Slot :=
  match x.state with
  | .empty => x
  | .loaded | .waiting | .sounding | .paused | .suspended =>
    { x with
      state := .empty, ring := Ring.powerOn, anchor := .pending 500000, waitingOrder := none, pause := none }

/-- Emptying a slot, its firings withdrawn first (01 R3). -/
def emptySlot (k : SlotId) (s : State) : State := updSlot k Slot.emptied (withdraw k s)

end Sys2Proof.Machine
end

