-- ==== Sys2Proof/Machine/ArbiterOps.lean ====
section
/-! DEFINITION. Shared operations of the cue arbiter (chapter 2): masks, the waiting set, starting, preempting,
resuming and handing on the sounding role. -/

namespace Sys2Proof.Machine

def setSection (st : SectionState) (s : State) : State := { s with sect.state := st }

/-- The slot holding the sounding role (02 §2.1). -/
def roleHolder (s : State) : Option SlotId :=
  match slotIn .sounding s with
  | some k => some k
  | none => slotIn .paused s

/-- The effective mask (02 R29). -/
def effectiveMask (s : State) : Nat :=
  match roleHolder s with
  | some k => s.cue.slots[k].priority
  | none => s.arb.baseMask

/-- A priority above the mask, or priority 7 (02 R29, R30). -/
def beats (priority mask : Nat) : Bool := mask < priority || priority == 7

/-- An entry leaves the waiting set; those behind it keep their order (02 R32). -/
def leaveWaiting (k : SlotId) (s : State) : State :=
  { s with arb.waiting := s.arb.waiting.filter fun w => w.slot != k }

/-- The anchor of a slot that begins to sound: at its head entry, one lead-in after now, or pending when nothing
is unplayed (01 R15, 02 R31, R37). -/
def leadAnchor (s : State) (tempo : Nat) (x : Slot) : Anchor :=
  match x.ring.unplayed with
  | e :: _ => .set e.tick (s.showNow + x.leadIn) tempo
  | [] => .pending tempo

/-- The anchor that CONTINUE sets (02 R40 step 2): at the freeze tick for ENTRY, else at the head entry. -/
def continueAnchor (s : State) (x : Slot) : Anchor :=
  match x.ring.unplayed, x.pause with
  | [], _ => .pending x.timing.tempo
  | e :: _, some f =>
    .set (if f.point = .entry then f.freezeTick else e.tick) (s.showNow + x.leadIn) x.timing.tempo
  | e :: _, none => .set e.tick (s.showNow + x.leadIn) x.timing.tempo

/-- A slot takes the sounding role: SOUNDING, the section PLAYING, and the low-water comparison (02 R28, R31,
01 R24). -/
def sound (k : SlotId) (s : State) : State :=
  noticeLow k (setSection .playing (updSlot k (fun x => { x with state := .sounding }) s))

/-- A slot starts (02 R31). The conditions of a commit are looked at afterwards (log 10). -/
def startSlot (k : SlotId) (s : State) : State :=
  sound k (updSlot k (fun x => { x.withAnchor (leadAnchor s x.timing.tempo x) with waitingOrder := none })
    (leaveWaiting k s))

/-- The best waiting cue: the highest priority, and among equals the one nearest the front (02 R32). -/
def bestWaiting (s : State) : Option SlotId :=
  go s.arb.waiting
where
  go : List WaitingEntry → Option SlotId
    | [] => none
    | w :: rest =>
      match go rest with
      | some k => if s.cue.slots[w.slot].priority < s.cue.slots[k].priority then some k else some w.slot
      | none => some w.slot

/-- The best waiting cue, if it may start over a mask (02 R35). -/
def qualifier (mask : Nat) (s : State) : Option SlotId :=
  match bestWaiting s with
  | some k => if beats s.cue.slots[k].priority mask then some k else none
  | none => none

/-- The judgment of the best waiting cue against the base mask (02 R43, 07 R141 step 4). -/
def judgeWaiting (s : State) : State :=
  match qualifier s.arb.baseMask s with
  | some k => startSlot k s
  | none => s

/-! ### Preemption (02 R33) -/

/-- The tempo and meter at the resume tick: the "before" values of the first retained entry at or above it, or
the commit state (02 R36). -/
def contextTiming (x : Slot) (f : PauseRecord) : CommitState :=
  match f.resumeTick with
  | none => x.timing
  | some t =>
    match (splitAtTick t x.ring.retained).2 with
    | c :: _ => c.note.before
    | [] => x.timing

/-- The context record of a slot, taken after its rewind (02 R36, Table 2.3.2). -/
def contextOf (k : SlotId) (f : PauseRecord) (s : State) : ContextRecord :=
  let x := s.cue.slots[k]
  { slot := k
    freeze := f
    timing := contextTiming x f
    transposition := x.transposition
    dynamics := x.dynamics
    holds := mapAll HoldChannel.on s.drive.holds
    rotorTargets := mapAll RotorChannel.target s.drive.rotors
    savedMask := x.priority }

/-- A slot is suspended, its anchor pending with its commit state tempo (02 R33 step 5). -/
def Slot.suspended (x : Slot) : Slot :=
  { x with state := .suspended, anchor := .pending x.timing.tempo, pause := none }

/-- The freeze and rewind of a slot that is SOUNDING, its firings withdrawn: the slot's freeze is found before
any rewind clears an annotation (02 R33 steps 1 to 3, R38 steps 1 to 3). -/
def freezeSounding (k : SlotId) (s : State) : PauseRecord × State :=
  let f := freezeOf s.now (actingPlaces k s) s.cue.slots[k]
  (f, updSlot k (.rewindToFreeze f) (withdraw k s))

/-- The occupant's freeze for a preemption: found now if SOUNDING, its pause record if PAUSED (02 R33). -/
def freezeOccupant (k : SlotId) (s : State) : PauseRecord × State :=
  match s.cue.slots[k].state, s.cue.slots[k].pause with
  | .paused, some f => (f, s)
  | _, _ => freezeSounding k s

/-- Preemption of the occupant (02 R33). -/
def preempt (k : SlotId) (s : State) : State :=
  let frozen := freezeOccupant k s
  let pushed := { frozen.2 with arb.stack := contextOf k frozen.1 frozen.2 :: frozen.2.arb.stack }
  setFlag .preempt (updSlot k Slot.suspended pushed)

/-! ### Resume (02 R37) -/

/-- Step 2: holds and rotor targets of the record. -/
def restoreDrive (r : ContextRecord) (s : State) : State :=
  let held := (allFin 4).foldl (fun t h => switchHold h r.holds[h] t) s
  (allFin 2).foldl (fun t m => setRotorTarget m r.rotorTargets[m] t) held

/-- Steps 3 and 4, and the commit state of step 5: settings, rewind, timing. -/
def Slot.restored (r : ContextRecord) (x : Slot) : Slot :=
  let set := { x with transposition := r.transposition, dynamics := r.dynamics }
  let rewound := match r.freeze.point, x.rewindMode, r.freeze.resumeTick with
    | .entry, .exactMode, _ => set.rewind r.freeze.freezeTick
    | .entry, _, some t => set.rewind t
    | .tail, .beatMode, some t => set.rewind t
    | .tail, .barMode, some t => set.rewind t
    | _, _, _ => set
  { rewound with timing := r.timing }

/-- The top cue of the stack resumes (02 R37). -/
def resume (r : ContextRecord) (rest : List ContextRecord) (s : State) : State :=
  let pulled := { s with arb.stack := rest }
  let driven := restoreDrive r pulled
  let restored := updSlot r.slot (.restored r) driven
  let anchored := updSlot r.slot (fun x => x.withAnchor (leadAnchor s r.timing.tempo x)) restored
  sound r.slot (setFlag .preempt anchored)

/-- The sounding role frees and is handed on (02 R35, Table 2.3.1). -/
def handOn (s : State) : State :=
  match s.arb.stack with
  | r :: rest =>
    match qualifier r.savedMask s with
    | some k => startSlot k s
    | none => resume r rest s
  | [] =>
    match qualifier s.arb.baseMask s with
    | some k => startSlot k s
    | none => setSection .quiet s

end Sys2Proof.Machine
end

