-- ==== Sys2Proof/Machine/CommitOps.lean ====
section
/-! DEFINITION. Shared operations in which the cue engine, the scheduler and the arbiter meet: the arrival of a
firing (04 R74, R78 to R81), the commit of the head entry (01 R19 to R24), and the commits that a freed place of
the fire list lets through (04 R84). -/

namespace Sys2Proof.Machine

/-! ### Arrival -/

/-- END completion (02 R39): CUE_DONE, the slot emptied, the role handed on. -/
def completeCue (k : SlotId) (s : State) : State := handOn (emptySlot k (setFlag .cueDone s))

/-- A MARK acts: CUE_MARK and the last-mark record, whose show time is the firing's fire time plus the sync
offset as it stands (04 R80; log 17). -/
def actMark (e : EntryRef) (number : Nat) (fireTime : Time) (s : State) : State :=
  setFlag .cueMark
    { s with sched.lastMark := some { slot := e.slot, number := number, showTime := fireTime + s.cue.syncOffset } }

/-- The fire time of a firing arrives: a STRIKE or TEST waits for its rail, any other leaves the list and acts
(04 R74, R78). -/
def arrive (f : Firing) (s : State) : State :=
  match f.kind with
  | .strike _ _ _ sh => replaceFiring f (f.arrived (s.lateLimit sh.lane)) s
  | .test sh => replaceFiring f (f.arrived (s.lateLimit sh.lane)) s
  | .hold _ h on => switchHold h on (removeFiring f s)
  | .rotor _ m target => setRotorTarget m target (removeFiring f s)
  | .mark e n => actMark e n f.fireTime (removeFiring f s)
  | .ending e => completeCue e.slot (removeFiring f s)

/-- A WAITING firing whose fire time has come (04 R74). -/
def Firing.arrives (now : Time) (f : Firing) : Bool := !f.railWaiting && f.fireTime ≤ now

/-- The firings in front of one in the list whose fire times have come too (04 R74, R78: they arrive in list
order). -/
def arrivingBefore (f : Firing) (s : State) : List Firing :=
  (s.sched.fireList.takeWhile (· != f)).filter (·.arrives s.now)

/-- Firings arrive one after the other. One that an arrival before it has withdrawn does not (04 R81, R82). -/
def arriveInTurn : List Firing → State → State
  | [], s => s
  | f :: rest, s => arriveInTurn rest (if f ∈ s.sched.fireList then arrive f s else s)

/-- A firing placed with a fire time already reached arrives in the event that placed it, behind the firings in front
of it whose fire times have come (04 R73, R74, R78; log 11). -/
def arriveIfReached (placed : Option Firing) (s : State) : State :=
  match placed with
  | some f => if f.fireTime ≤ s.now then arriveInTurn (arrivingBefore f s ++ [f]) s else s
  | none => s

/-! ### The commit of each kind (01 R20 to R22) -/

/-- The commit of a NOTE (01 R20): skipped as unmapped, or offered to the scheduler. `due` is in part time. -/
def commitNote (ref : EntryRef) (pitch velocity : Nat) (voiceClass : Fin 8) (due : Time) (x : Slot) (s : State) :
    State × CommitOutcome × Option Firing :=
  match mappedGroup s.pitch (pitch + x.transposition) with
  | none =>
    (raise (noteError .pitchUnmapped ref pitch none none none)
      { s with sched.stats.skippedUnmapped := saturate 65535 (s.sched.stats.skippedUnmapped + 1) },
      .skippedUnmapped, none)
  | some g =>
    let v := effectiveVelocity velocity x.dynamics
    let c := groupCurve s.pitch g
    takeOffer
      { entry := ref, pitch := pitch, group := g, lane := laneOf s.pitch voiceClass, velocity := v,
        width := widthAt c v, fireTime := due - flightAt c v } s

/-- A HOLD, ROTOR, MARK or END entry becomes a firing at its due time (01 R22). -/
def commitActing (kind : FiringKind) (due : Time) (s : State) : State × CommitOutcome × Option Firing :=
  (placeFiring due kind s, .fired, some (nextFiring due kind s))

/-- What the entry's commit does before its annotation is written. `dueShow` is the due time under the anchor in
force (01 R14); part time is show time less the sync offset as it stands (01 R20 step 6). -/
def commitEffect (k : SlotId) (e : Event) (dueShow : Time) (s : State) : State × CommitOutcome × Option Firing :=
  let x := s.cue.slots[k]
  let due := dueShow - s.cue.syncOffset
  let ref : EntryRef := { slot := k, place := x.ring.commitCursor, tick := e.tick }
  match e.data with
  | .note pitch velocity voiceClass => commitNote ref pitch velocity voiceClass due x s
  | .hold h on => commitActing (.hold ref h on) due s
  | .rotor m target => commitActing (.rotor ref m target) due s
  | .mark n => commitActing (.mark ref n) due s
  | .ending => commitActing (.ending ref) due s
  | .tempo p => (updSlot k (.withAnchor (.set e.tick dueShow p)) s, .applied, none)
  | .meter m =>
    (updSlot k (fun y => { y with timing := { y.timing with barOrigin := e.tick, beatsPerBar := m } }) s,
      .applied, none)

/-- The annotation of an entry: the commit state before it, beat and bar starts after it (01 R8, R20, R21). -/
def annotationOf (e : Event) (due : Time) (before after : CommitState) (outcome : CommitOutcome) : Annotation :=
  { due := due, beatStart := after.beatStart e.tick, barStart := after.barStart e.tick, before := before,
    outcome := outcome }

/-- The commit cursor passes the head entry, which takes its annotation (01 R5). -/
def Slot.advance (note : Annotation) (x : Slot) : Slot :=
  match x.ring.unplayed with
  | e :: rest =>
    { x with ring := { x.ring with
        retained := x.ring.retained ++ [{ event := e, note := note }]
        unplayed := rest } }
  | [] => x

/-- One commit of the head entry `e` of slot `k`, due at `dueShow` (01 R19 to R24): the entry's effect, its
annotation, the release, the notices, and the arrivals when its firing's fire time is already reached (log 11). -/
def commitEntry (k : SlotId) (e : Event) (dueShow : Time) (s : State) : State :=
  let effect := commitEffect k e dueShow s
  let note := annotationOf e (dueShow - s.cue.syncOffset) s.cue.slots[k].timing
    effect.1.cue.slots[k].timing effect.2.1
  let released := updSlot k (fun x => (x.advance note).releaseEntries s.now) effect.1
  arriveIfReached effect.2.2 (noticeUnderrun k (noticeLow k released))

/-- The commit of a slot's head entry under its anchor (01 R14: none while it is pending). -/
def commitHead (k : SlotId) (s : State) : State :=
  match s.cue.slots[k].ring.unplayed with
  | e :: _ =>
    match s.cue.slots[k].anchor.due e.tick with
    | some due => commitEntry k e due s
    | none => s
  | [] => s

/-! ### Commits let through by a freed place (04 R84) -/

/-- Commits follow one another while their conditions hold. `fuel` bounds them by the entries the four rings can
hold. -/
def commitWhileReady : Nat → State → State
  | 0, s => s
  | fuel + 1, s =>
    match commitReady s with
    | some k => commitWhileReady fuel (commitHead k s)
    | none => s

/-- When firings have left a full list on whose space the head entry's commit was waiting, the commits now
possible are taken in the same event (04 R84). -/
def commitsAfterLeaving (before after : State) : State :=
  if waitsOnSpace before && !after.fireListFull then commitWhileReady 1024 after else after

end Sys2Proof.Machine
end

