-- ==== Sys2Proof/Machine/SectionOps.lean ====
section
/-! DEFINITION. Shared operations of section control (chapter 7): hush, its causes and its completion, the pendant
silence timer, and the end of an event, where a fatal cause is delivered (08 R149). -/

namespace Sys2Proof.Machine

/-! ### Pendant silence timer (07 R140) -/

/-- The period of pendant silence, in µs. -/
def silencePeriod : Time := 2000000

/-- A stopped timer starts. -/
def SectionRecord.startTimer (now : Time) (r : SectionRecord) : SectionRecord :=
  match r.silenceTimer with
  | none => { r with silenceTimer := some (now + silencePeriod) }
  | some _ => r

/-- A running timer restarts at each accepted pendant frame; a stopped one stays stopped. -/
def SectionRecord.restartTimer (now : Time) (r : SectionRecord) : SectionRecord :=
  match r.silenceTimer with
  | none => r
  | some _ => { r with silenceTimer := some (now + silencePeriod) }

/-! ### Hush (07 §7.2) -/

/-- The arbiter at the start of a hush: every slot emptied, stack and waiting set empty (02 R42). -/
def hushCues (s : State) : State :=
  { s with
    cue.slots := mapAll Slot.emptied s.cue.slots
    arb := { s.arb with stack := [], waiting := [] } }

/-- Steps 1 to 3 of the hush start actions (07 R132). -/
def hushStart (s : State) : State :=
  let t := setFireList [] (hushCues s)
  { t with drive := t.drive.hushed t.now }

/-- The section record at completion (07 Table 7.2.3). -/
def SectionRecord.completed (r : SectionRecord) : SectionRecord :=
  match r.hushTarget, r.haltPending with
  | .service, _ =>
    { r with state := .service, takeover := if r.takeover = .claiming then .held else r.takeover }
  | .quiet, true => { r with state := .halted, silenceTimer := none }
  | .quiet, false => { r with state := .quiet, silenceTimer := none }

/-- Completion sets TAKEOVER when a claim becomes a hold (07 R134, R139). -/
def claimCompletes (r : SectionRecord) : Bool := r.hushTarget == .service && r.takeover == .claiming

/-- The completion event (07 R134). -/
def completeHush (s : State) : State :=
  let t := { setFlag .hushDone s with sect := s.sect.completed }
  if claimCompletes s.sect then setFlag .takeover t else t

/-- The conditions of completion (07 R134). -/
def hushComplete (s : State) : Bool :=
  s.sect.state == .hushing && s.drive.silent && s.drive.rotorsAtRest

/-- Completion, if its conditions hold. -/
def completeIfDone (s : State) : State := if hushComplete s then completeHush s else s

/-- The target of a hush that a request, a break, a reset or a fatal error begins: SERVICE if taken in SERVICE
(07 Table 7.2.1). -/
def State.ownTarget (s : State) : HushTarget := if s.sect.state = .service then .service else .quiet

/-- The hush record of a hush that begins (07 R131): a timer that is stopped starts when the target is SERVICE. -/
def SectionRecord.hushBegun (now : Time) (target : HushTarget) (halt : Bool) (r : SectionRecord) :
    SectionRecord :=
  let set := { r with state := .hushing, hushTarget := target, haltPending := r.haltPending || halt }
  match target with
  | .service => set.startTimer now
  | .quiet => set

/-- A hush begins: the record, the start actions and the completion test (07 R131, R132). -/
def beginHush (target : HushTarget) (halt : Bool) (s : State) : State :=
  completeIfDone (hushStart { s with sect := s.sect.hushBegun s.now target halt })

/-- A HUSH request, a break cause or a SECTION RESET: begins a hush outside HUSHING, changes nothing during one
(07 R131, R133). -/
def causeHush (s : State) : State :=
  if s.sect.state = .hushing then s else beginHush s.ownTarget false s

/-- A fatal cause (08 R149, 07 R131, R133). With every rotor at rest its hush completes at once (07 R132 step 4), so a
RELEASE or CLEAR HALT taken after it is judged in the state then entered, and not in HUSHING as in Table 7.6.1
(DEDUCED, log 31). -/
def fatalCause (s : State) : State :=
  if s.sect.state = .hushing then { s with sect.haltPending := true }
  else beginHush s.ownTarget true s

/-- A forced TAKE that claims the section (07 R138, R131, R133). -/
def forcedTake (s : State) : State :=
  let claim : Takeover := if s.sect.takeover = .none then .claiming else s.sect.takeover
  if s.sect.state = .hushing then
    { s with sect := ({ s.sect with hushTarget := .service, takeover := claim }).startTimer s.now }
  else
    beginHush .service false { s with sect.takeover := .claiming }

/-- The takeover record goes from HELD, or a claim is given up (07 R139, R140 step 3). -/
def loseTakeover (s : State) : State :=
  let t := if s.sect.takeover = .held then setFlag .takeover s else s
  { t with sect.takeover := .none }

/-- The section is entered by the pendant: SERVICE, HELD, TAKEOVER, timer started (07 R138). -/
def enterService (s : State) : State :=
  setFlag .takeover
    { s with sect := ({ s.sect with state := .service, takeover := .held }).startTimer s.now }

/-! ### The end of an event -/

/-- A fatal cause raised in this event is delivered when its own steps are done (08 R149). -/
def deliverFatal (s : State) : State :=
  if s.fault.fatalDue then fatalCause { s with fault.fatalDue := false } else s

/-- One whole event: its own steps, the commits that a freed place lets through (04 R84), and then the fatal
cause (08 R149). -/
def settle (before after : State) : State := deliverFatal (commitsAfterLeaving before after)

/-- A meaning as one event of the part. -/
def event (body : State → State) (s : State) : Host.Outcome State Fault Refusal :=
  .next (settle s (body s))

end Sys2Proof.Machine
end

