-- ==== Sys2Proof/Machine/LinkOps.lean ====
section
/-! DEFINITION. Shared operations of the links (chapter 9): character and bit times, acceptance of frames, the
reply path, and the way a request goes from its frame to its owning block and back (09 R173 to R176). -/

namespace Sys2Proof.Machine

/-! ### Bit times -/

/-- Bits per second of a link: the rate straps' on the show link, 115,200 on the service port (09 Table 9.1.1). -/
def bitRate (g : ShowLinkSettings) : Link → Nat
  | .showLink => 125000 * 2 ^ g.rate.toNat
  | .servicePort => 115200

/-- `chars` characters of 11 bits have gone by since a time (09 R166), without rounding (log 18). -/
def charsElapsed (s : State) (l : Link) (chars : Nat) (since : Time) : Bool :=
  (11000000 * chars : Nat) ≤ (s.now - since) * bitRate s.settings l

/-- The whole bit times that have gone by since a time (log 18). -/
def bitsElapsed (s : State) (l : Link) (since : Time) : Nat :=
  ((s.now - since) * bitRate s.settings l / 1000000).toNat

/-- The level that the part gives its transmit line, mark as true: that of the frame in the shifter. With the shifter
idle it releases the shared reply line, and leaves the pendant's line at rest at mark (09 R166, R176). -/
def transmitLevel (s : State) (l : Link) : Option Bool :=
  match (s.unit l).shifter, l with
  | some x, _ => some (x.frame.levelAt (bitsElapsed s l x.since))
  | none, .showLink => none
  | none, .servicePort => some true

/-- The line is at space after a break, and the receiver takes no characters (09 R171). -/
def LinkUnit.deaf (u : LinkUnit) : Bool := u.breakFlag && u.spaceStart.isSome

/-! ### Receiver errors -/

/-- The detail of a frame received so far: its first six body bytes (08 R152, Table 8.2.2). -/
def Assembly.detail (f : Assembly) : Detail := .link (some f.address) f.length (f.body.take 6)

def linkError (kind : ErrorKind) (l : Link) (detail : Detail) : Occurrence :=
  { kind := kind, origin := .link l, detail := detail }

/-! ### Acceptance -/

/-- Two frame buffers (09 R173). -/
def LinkUnit.bufferFree (u : LinkUnit) : Bool := u.buffers.length < 2

/-- A frame enters a buffer; it is presented at once if no frame was before it (09 R173). -/
def LinkUnit.store (now : Time) (f : BufferedFrame) (u : LinkUnit) : LinkUnit :=
  { u with
    buffers := u.buffers ++ [f]
    presentedAt := if u.buffers.isEmpty then some now else u.presentedAt }

/-- A pendant frame's acceptance restarts a running silence timer (07 R140). -/
def notePendantFrame (l : Link) (s : State) : State :=
  match l with
  | .servicePort => { s with sect := s.sect.restartTimer s.now }
  | .showLink => s

/-- A frame is accepted into a buffer (09 R170). -/
def acceptFrame (l : Link) (f : BufferedFrame) (s : State) : State :=
  notePendantFrame l (updUnit l (.store s.now f) s)

/-- The address values that make a frame this part's (09 R169, R177). -/
def takesAddress (g : ShowLinkSettings) (l : Link) (value : Byte) : Bool :=
  match l with
  | .showLink => value.toNat == 31 || value.toNat == g.ownAddress.toNat
  | .servicePort => true

/-- A broadcast: a show-link frame to address 31; the service port has none (09 R165, R177). -/
def isBroadcast (f : Frame) : Bool := f.link == .showLink && f.address.toNat == 31

/-- The body of a request frame (09 Table 9.2.1). -/
def bodyOf (kind : Byte) (f : Frame) : List Byte := kind :: f.tag :: f.fields

/-- The oldest buffer is freed, and the next frame is presented (09 R173). -/
def LinkUnit.free (now : Time) (rest : List BufferedFrame) (u : LinkUnit) : LinkUnit :=
  { u with buffers := rest, presentedAt := if rest.isEmpty then none else some now }

/-- The frame of a request command is presented by its link: it is the oldest frame in the link's buffers, which
is freed, or, when the link holds no frame, it is accepted and presented in this one event (log 4). The answer is
its completion time and the state. Any other frame is not presented. -/
def presentFrame (kind : Byte) (f : Frame) (s : State) : Option (Time × State) :=
  match (s.unit f.link).buffers with
  | b :: rest =>
    if b.address = f.address ∧ b.body = bodyOf kind f then
      some (b.completed, updUnit f.link (.free s.now rest) s)
    else none
  | [] =>
    if f.bodyFits && takesAddress s.settings f.link f.address then some (s.now, notePendantFrame f.link s)
    else none

/-! ### The reply path (09 R175, R176) -/

/-- The reply frame of an addressed request (09 R175). -/
def replyFrame (s : State) (kind tag : Byte) (r : Reply) : ReplyFrame :=
  { address := byteOf s.settings.ownAddress.toNat, body := kind :: tag :: r.code.byte :: r.data }

/-- The detail of a lost reply: its address, length and first six body bytes (08 Table 8.2.2). -/
def ReplyFrame.detail (r : ReplyFrame) : Detail :=
  .link (some r.address) (some (byteOf r.body.length)) (r.body.take 6)

/-- A reply goes to the shifter, waits in the slot, or is lost with REPLY_LOST (09 R176). -/
def placeReply (l : Link) (r : ReplyFrame) (s : State) : State :=
  match (s.unit l).shifter, (s.unit l).replySlot with
  | none, _ => updUnit l (fun u => { u with shifter := some { frame := r, since := s.now } }) s
  | some _, none => updUnit l (fun u => { u with replySlot := some r }) s
  | some _, some _ => raise (linkError .replyLost l r.detail) s

/-! ### Requests -/

/-- Which link may issue a request, and in which form (09 Table 9.3.1). -/
inductive Permission
  /-- SYNC: a show-link broadcast only. -/
  | broadcastOnly
  /-- NUDGE and HUSH: every form. -/
  | everyForm
  /-- TAKE, RELEASE, CALL and the tests: the service port only. -/
  | pendantOnly
  /-- Every other request: addressed on either link. -/
  | addressed
  deriving DecidableEq, Repr

/-- 09 Table 9.3.1. -/
def Permission.allows (p : Permission) (f : Frame) : Bool :=
  match p with
  | .broadcastOnly => isBroadcast f
  | .everyForm => true
  | .pendantOnly => f.link == .servicePort
  | .addressed => !(isBroadcast f)

/-- The envelope checks (09 R174): the link and form, then the length. `decode` gives nothing for a body whose
length does not suit the kind. -/
def envelope (p : Permission) (f : Frame) (decode : List Byte → Option Action) : Action :=
  if p.allows f then
    match decode f.fields with
    | some act => act
    | none => refuse .length
  else refuse .unknown

/-- The answer of a request: no reply to a broadcast, one to an addressed request (09 R174). A broadcast that
would be refused changes nothing, as no refusal does. -/
def answer (kind : Byte) (f : Frame) (act : Action) (s : State) : State :=
  let taken := act s
  if isBroadcast f then taken.1 else placeReply f.link (replyFrame taken.1 kind f.tag taken.2) taken.1

/-- A request command whose decoding may use the frame's completion time (01 R25). -/
def takeTimedRequest (kind : Byte) (p : Permission) (f : Frame) (decode : Time → List Byte → Option Action)
    (s : State) : Host.Outcome State Fault Refusal :=
  match presentFrame kind f s with
  | some (completed, t) => .next (settle s (answer kind f (envelope p f (decode completed)) t))
  | none => .next s

/-- A request command: its frame is presented, checked, taken by its owning block and answered, in one event
(09 R173 to R176). -/
def takeRequest (kind : Byte) (p : Permission) (f : Frame) (decode : List Byte → Option Action) (s : State) :
    Host.Outcome State Fault Refusal :=
  takeTimedRequest kind p f (fun _ => decode) s

end Sys2Proof.Machine
end

