-- ==== Sys2Proof/Machine/Replies.lean ====
section
/-! DEFINITION. The data of the reading requests' replies (10 R183 to R185): each function lays out one record of
Tables 10.3.1 to 10.3.5. -/

namespace Sys2Proof.Machine

/-- Bytes that a layout marks as unused are sent as 0 (10 R180). -/
def unused (n : Nat) : List Byte := List.replicate n 0

/-- The number of firings of a list with a property, as one byte. -/
def countByte (p : Firing → Bool) (l : List Firing) : Byte := byteOf (l.countP p)

/-! ### Section (10 Table 10.3.5, READ STATE) -/

/-- Bit 2n the near flag, bit 2n + 1 the overload latch of rail n. -/
def railFlags (a : RailArbiter) : Byte :=
  flagByte (a.rails.toList.flatMap fun r => [r.near, r.latch])

/-- The 30 bytes of READ STATE (07 R145). -/
def stateData (s : State) : List Byte :=
  let r := s.sect
  [r.state.code, if r.state = .hushing then r.hushTarget.code else absent, boolByte r.haltPending,
    r.takeover.code, boolByte r.breakHush, boolByte r.silenceTimer.isSome] ++
  optPartTime r.silenceTimer ++
  s.cue.slots.toList.map (fun x => x.state.code) ++
  [byteOf s.sched.fireList.length, railFlags s.rail] ++ partTime48 s.now ++ signed48 s.showNow

/-! ### Cues -/

def Anchor.isSet : Anchor → Bool
  | .set _ _ _ => true
  | .pending _ => false

/-- Anchor tick (4), show time (6) and tempo (3); an absent tick or time is 0 (10 R180). -/
def anchorData : Anchor → List Byte
  | .set t d p => be32 t ++ signed48 d ++ be24 p
  | .pending p => be32 0 ++ signed48 0 ++ be24 p

/-- Tempo (3), bar origin (4), beats per bar. -/
def timingData (c : CommitState) : List Byte := be24 c.tempo ++ be32 c.barOrigin ++ [byteOf c.beatsPerBar]

/-- READ CUE, summary (01 R12). -/
def cueSummary (x : Slot) : List Byte :=
  [x.state.code, byteOf x.priority, x.rewindMode.code] ++ be16 x.leadInMs ++
  [byteOf x.lowWater, signedByte x.transposition, byteOf x.dynamics] ++
  be16 x.ring.occupancy ++ be16 x.ring.unplayedCount ++
  [boolByte x.ring.closed,
    flagByte [x.anchor.isSet, x.ring.releaseTick.isSome, x.ring.commitTick.isSome, x.ring.lastTick.isSome]] ++
  anchorData x.anchor ++ timingData x.timing ++
  optTick x.ring.releaseTick ++ optTick x.ring.commitTick ++ optTick x.ring.lastTick

/-- The annotation of an entry, or its absence: multi-byte items 0, one-byte items FFh (10 R180). -/
def annotationData : Option Annotation → List Byte
  | some a => 1 :: partTime48 a.due ++ be32 a.beatStart ++ be32 a.barStart ++ timingData a.before ++ [a.outcome.code]
  | none => 0 :: partTime48 0 ++ be32 0 ++ be32 0 ++ be24 0 ++ be32 0 ++ [absent, absent]

/-- The k-th entry from the release cursor, with its annotation when committed (01 R12). -/
def Ring.entry (r : Ring) (k : Nat) : Option (Event × Option Annotation) :=
  ((r.retained.map fun c => (c.event, some c.note)) ++ r.unplayed.map fun e => (e, none))[k]?

/-- READ CUE, entry. -/
def entryData (index : Byte) (e : Event) (note : Option Annotation) : List Byte :=
  index :: e.bytes ++ annotationData note

/-! ### Arbiter (10 R183) -/

/-- One waiting entry: slot, priority, START sequence number (4). -/
def waitingData (s : State) (w : WaitingEntry) : List Byte :=
  [finByte w.slot, byteOf s.cue.slots[w.slot].priority] ++ be32 w.sequence.toNat

/-- The pause record of the PAUSED slot, if any. -/
def pauseOf (s : State) : Option PauseRecord :=
  match slotIn .paused s with
  | some k => s.cue.slots[k].pause
  | none => none

/-- Freeze tick and resume tick, 0 when absent. -/
def pauseTicks : Option PauseRecord → List Byte
  | some f => be32 f.freezeTick ++ optTick f.resumeTick
  | none => be32 0 ++ be32 0

/-- READ STACK, summary (Table 10.3.1). -/
def stackSummary (s : State) : List Byte :=
  [byteOf s.arb.baseMask, byteOf (effectiveMask s), optByte finByte (roleHolder s),
    optByte (fun k => s.cue.slots[k].state.code) (roleHolder s),
    optByte (fun f => f.point.code) (pauseOf s)] ++
  pauseTicks (pauseOf s) ++
  [byteOf s.arb.stack.length, byteOf s.arb.waiting.length] ++
  s.arb.waiting.flatMap (waitingData s) ++ be32 s.arb.startSequence.toNat

/-- A context record (Table 10.3.2). -/
def contextData (r : ContextRecord) : List Byte :=
  [finByte r.slot, r.freeze.point.code] ++ be32 r.freeze.freezeTick ++ optTick r.freeze.resumeTick ++
  timingData r.timing ++ [signedByte r.transposition, byteOf r.dynamics, flagByte r.holds.toList] ++
  r.rotorTargets.toList.map byteOf ++ [byteOf r.savedMask]

/-- READ STACK with a position. -/
def stackPosition (s : State) (position : Byte) : List Byte :=
  [byteOf s.arb.stack.length, position] ++
    match s.arb.stack[position.toNat]? with
    | some r => contextData r
    | none => []

/-! ### Pitch map -/

def windowData (w : Window) : List Byte :=
  [boolByte w.enabled, byteOf w.firstPitch, byteOf w.count, byteOf w.firstGroup]

/-- READ WINDOW by pitch: result, window, group, member count (03 R52; the count of a group with no members is 0, as
in 03 Table 3.8.3, log 25). Pitches 0 to 127 are never OUT_OF_RANGE. -/
def pitchData (p : PitchMap) (pitch : Nat) : List Byte :=
  match translate p pitch with
  | .mapped w g => [0, finByte w, finByte g, byteOf p.groups[g].members.length]
  | .noWindow | .outOfRange => [1, absent, absent, absent]
  | .noMembers w g => [2, finByte w, finByte g, 0]

/-- READ GROUP (03 R56). -/
def groupData (s : State) (g : Group) : List Byte :=
  [finByte g.curve, g.policy.code, byteOf g.delayLimitMs, byteOf g.members.length] ++
  g.members.flatMap fun c => [finByte c, boolByte s.drive.strikes[c].fenced]

/-- The five points of a curve. -/
def curveData (c : Curve) : List Byte := c.toList.flatMap fun p => be16 p.width ++ be16 p.flight

/-- The width and flight time of a curve at a velocity. -/
def curveAtData (c : Curve) (v : Nat) : List Byte := be16 (widthAt c v) ++ be16 (flightAt c v)

/-- The class-to-lane map (03 R61). -/
def lanesData (p : PitchMap) : List Byte := p.lanes.toList.map finByte

/-! ### Scheduler -/

/-- The last-mark record: present, slot, number, show time (6). -/
def markData : Option LastMark → List Byte
  | some m => [1, finByte m.slot, byteOf m.number] ++ signed48 m.showTime
  | none => [0, absent, absent] ++ signed48 0

/-- The two late limits in ms (04 R85). -/
def limitsData (c : Scheduler) : List Byte := c.lateLimitsMs.toList.map byteOf

/-- READ FIRE LIST, statistics (04 R87). -/
def statisticsData (c : Scheduler) : List Byte :=
  [byteOf c.fireList.length, countByte Firing.railWaiting c.fireList] ++
  be16 c.stats.lateBegins ++ be32 c.stats.maxLateness ++ be16 c.stats.skippedUnmapped ++
  be16 c.stats.skippedLate ++ be16 c.stats.skippedBusy ++ be16 c.stats.expired ++
  limitsData c ++ markData c.lastMark ++ be32 c.placementCounter.toNat

/-- Late expiry less fire time in µs, 0 while WAITING. -/
def expiryOffset (f : Firing) : Nat :=
  match f.state with
  | .railWait e => (e - f.fireTime).toNat
  | .waiting => 0

/-- Channel; rail in bits 6–7 with group, 63 for TEST, in bits 0–5; lane in bit 7 with velocity; width (2). -/
def shotData (sh : Shot) (group : Nat) : List Byte :=
  [finByte sh.channel, byteOf (sh.rail.val * 64 + group), byteOf (sh.lane.val * 128 + sh.velocity)] ++ be16 sh.width

/-- The five kind bytes of a listed firing (10 R185). -/
def kindData : FiringKind → List Byte
  | .strike _ _ g sh => shotData sh g.val
  | .test sh => shotData sh 63
  | .hold _ h on => [finByte h, boolByte on] ++ unused 3
  | .rotor _ m target => [finByte m, byteOf target] ++ unused 3
  | .mark _ n => byteOf n :: unused 4
  | .ending _ => unused 5

/-- The 18 bytes of a listed firing: the number is its low 16 bits. -/
def firingData (f : Firing) : List Byte :=
  be16 f.number.toNat ++ [f.kind.code, f.state.code, f.kind.source.code] ++ partTime48 f.fireTime ++
  be16 (expiryOffset f) ++ kindData f.kind

/-- READ FIRE LIST, list: up to three firings from the start position (04 R88). -/
def fireListData (c : Scheduler) (start : Nat) : List Byte :=
  let shown := (c.fireList.drop start).take 3
  [byteOf c.fireList.length, byteOf shown.length] ++ shown.flatMap firingData

/-! ### Rails -/

/-- The phase index of the phase that began most recently (05 R95); free before the first (log 8). -/
def lastPhaseIndex (a : RailArbiter) : Byte :=
  match a.lastPhaseStart with
  | some t => byteOf (t / 250 % 64)
  | none => Config.phaseIndexBeforeFirst

/-- Pending state, phase index, and the entries asked for (05 R95). No count stands before the entries (DEDUCED, log
28: 10 Table 10.3.5 lists none, beside the sentence of R185 on counts). -/
def phasesData (a : RailArbiter) (entries : List (Option RailId)) : List Byte :=
  [a.pendingTable.code, lastPhaseIndex a] ++ entries.map phaseCode

/-- A RAIL_WAIT firing whose rail is this rail (05 R103, R105). -/
def Firing.waitsFor (r : RailId) (f : Firing) : Bool :=
  f.railWaiting && match f.kind.shot? with
    | some sh => sh.rail == r
    | none => false

/-- READ RAIL (05 R103). -/
def railData (s : State) (r : RailId) : List Byte :=
  let x := s.rail.rails[r]
  be16 x.limit ++ be16 x.drain ++ be16 x.accumulator ++ be16 x.effectiveLimit ++ be16 x.standingLoad ++
  [flagByte [x.near, x.latch], countByte (Firing.waitsFor r) s.sched.fireList,
    byteOf (s.rail.table.toList.countP fun e => e == some r)]

/-! ### Channels (06 R120) -/

def ChannelState.pulse? : ChannelState → Option DrivenPulse
  | .driving p => some p
  | .idle | .recover => none

/-- Width (2), source, fire time (6) of a pulse; absent: 0, FFh, 0. -/
def pulseData : Option Pulse → List Byte
  | some p => be16 p.width ++ [p.source.code] ++ partTime48 p.fireTime
  | none => be16 0 ++ [absent] ++ partTime48 0

/-- Begin (6) and end (6) of the pulse in drive. -/
def driveTimes : Option DrivenPulse → List Byte
  | some p => partTime48 p.beginTime ++ partTime48 p.endTime
  | none => partTime48 0 ++ partTime48 0

/-- READ CHANNEL, strike. -/
def strikeData (s : State) (c : ChannelId) : List Byte :=
  let x := s.drive.strikes[c]
  let driven := x.state.pulse?
  [finByte x.rail, byteOf x.currentClass, byteOf x.recoveryMs, x.state.code,
    flagByte [driven.isSome, x.nextPulse.isSome, x.lastPulseEnd.isSome, x.fenced], optByte finByte x.group] ++
  pulseData (driven.map DrivenPulse.pulse) ++ driveTimes driven ++ pulseData x.nextPulse ++
  optPartTime x.lastPulseEnd ++ partTime48 x.readyTime ++ [x.lastSense.code] ++ be16 x.pulseCount.toNat ++
  [countByte (fun f => f.isFor c && !f.railWaiting) s.sched.fireList,
    countByte (fun f => f.isFor c && f.railWaiting) s.sched.fireList]

/-- READ CHANNEL, hold. -/
def holdData (h : HoldChannel) : List Byte := [finByte h.rail] ++ be16 h.load ++ [boolByte h.on]

/-- READ CHANNEL, rotor. -/
def rotorData (m : RotorChannel) : List Byte :=
  [finByte m.rail] ++ be16 m.load ++
  [byteOf m.rampStep, byteOf m.target, byteOf m.current, flagByte [m.hushRamp, m.timer.isSome]] ++
  optPartTime m.timer

def channelData (s : State) : Designation → List Byte
  | .strike c => strikeData s c
  | .hold h => holdData s.drive.holds[h]
  | .rotor m => rotorData s.drive.rotors[m]

/-! ### Fault monitor -/

/-- The set of kinds with a property, kind n as bit n (10 R180). -/
def kindsWith (m : FaultMonitor) (p : KindRecord → Bool) : List Byte :=
  be16 ((m.kinds.toList.map p).foldr (fun b n => b.toNat + 2 * n) 0)

def statusData (m : FaultMonitor) : List Byte := kindsWith m KindRecord.status
def maskData (m : FaultMonitor) : List Byte := kindsWith m KindRecord.masked

/-- READ FAULTS (08 R154). -/
def faultsData (m : FaultMonitor) : List Byte :=
  statusData m ++ maskData m ++ m.kinds.toList.map (fun k => k.severity.code) ++
  [boolByte m.capture.isSome, boolByte (haltingKind m).isSome]

/-- READ COUNTS (08 R159). -/
def countsData (m : FaultMonitor) : List Byte := m.kinds.toList.flatMap fun k => be16 k.count

/-- Slot, tick (4) and pitch of a note detail; absent: FFh, 0, FFh. -/
def noteData : Option NoteDetail → List Byte × List Byte
  | some n => ([finByte n.slot] ++ be32 n.tick, [byteOf n.pitch])
  | none => ([absent] ++ be32 0, [absent])

/-- The thirteen detail bytes of a capture (Table 10.3.4). Body bytes beyond the byte count are free values (log
22). -/
def Detail.data : Detail → List Byte
  | .link a l bs =>
    [flagByte [a.isSome, l.isSome], optByte id a, optByte id l, byteOf bs.length] ++
      (bs ++ (Config.meaninglessBodyBytes bs).toList).take 6 ++ unused 3
  | .strike n g c late =>
    [flagByte [n.isSome, g.isSome, c.isSome, late.isSome]] ++ (noteData n).1 ++ (noteData n).2 ++
      [optByte finByte g, optByte finByte c] ++ be32 (late.getD 0)
  | .drive c w => [finByte c] ++ be16 w ++ unused 10
  | .rail a l => be16 a ++ be16 l ++ unused 9
  | .clock d o => signed48 d ++ signed48 o ++ unused 1
  | .nothing => unused 13

/-- READ CAPTURE (10 R184). -/
def captureData : Option CaptureRecord → List Byte
  | none => [0]
  | some c =>
    [1, c.kind.code, c.severity.code] ++ partTime48 c.partTime ++ signed48 c.showTime ++
      [c.origin.typeCode, c.origin.number] ++ c.detail.data ++ [boolByte c.more] ++ be16 c.moreCount

/-- READ ATTENTION (08 R162). -/
def attentionData (m : FaultMonitor) : List Byte :=
  setBytes m.flags ++ setBytes m.mask ++ [boolByte (attentionLine m)]

/-! ### Exchange words (09 R178) -/

/-- The words, two bytes each, with no count before them (DEDUCED, log 28: 10 Table 10.3.5 lists none, beside the
sentence of R185 on counts). -/
def wordsData (g : ShowLinkSettings) (first count : Nat) : List Byte :=
  ((g.exchange.toList.drop first).take count).flatMap fun w => be16 w.toNat

end Sys2Proof.Machine
end

