-- ==== Sys2Proof/Machine/ArbiterRequests.lean ====
section
/-! DEFINITION. The requests of the cue arbiter (chapter 2): START, PAUSE, CONTINUE, DROP CUE, SET MASK,
SET TRANSPOSE, SET DYNAMICS and READ STACK. -/

namespace Sys2Proof.Machine

/-! ### START (02 R30) -/

/-- The section states in which START is refused (02 Table 2.2.1). -/
def State.refusesStart (s : State) : Bool :=
  match s.sect.state with
  | .hushing | .halted | .service => true
  | .quiet | .playing | .paused => false

/-- A slot that may not start becomes WAITING (02 R32). -/
def enterWaiting (k : SlotId) (s : State) : State :=
  let n := s.arb.startSequence + 1
  let t := { s with arb := { s.arb with
    startSequence := n, waiting := s.arb.waiting ++ [{ slot := k, sequence := n }] } }
  updSlot k (fun x => { x with state := .waiting, waitingOrder := some n }) t

/-- The slot takes the role, preempting any occupant (02 R30, R31, R33). -/
def takeRole (k : SlotId) (s : State) : State :=
  match roleHolder s with
  | some occupant => startSlot k (preempt occupant s)
  | none => startSlot k s

def startLoaded (k : SlotId) : Action := fun s =>
  if s.refusesStart || s.cue.slots[k].state != .loaded then refuse .state s
  else if beats s.cue.slots[k].priority (effectiveMask s) then (takeRole k s, .done [SlotState.sounding.code])
  else (enterWaiting k s, .done [SlotState.waiting.code])

def startAct (l : Link) (slot : Byte) : Action :=
  unlessTaken l <|
    match toFin 4 slot with
    | some k => startLoaded k
    | none => refuse .range

def startBody (l : Link) : List Byte → Option Action
  | [slot] => some (startAct l slot)
  | _ => none

/-- START (02 R30). -/
def execStart (f : Frame) (s : State) : Host.Outcome State Fault Refusal :=
  takeRequest 0x20 .addressed f (startBody f.link) s

/-! ### PAUSE (02 R38) and CONTINUE (02 R40) -/

/-- Steps 4 and 5 of PAUSE. -/
def Slot.pausedAt (p : PauseRecord) (x : Slot) : Slot :=
  { x with state := .paused, anchor := .pending x.timing.tempo, pause := some p }

def pauseSlot (k : SlotId) (s : State) : State :=
  let frozen := freezeSounding k s
  setSection .paused (updSlot k (.pausedAt frozen.1) frozen.2)

def pauseAct (l : Link) : Action :=
  unlessTaken l fun s =>
    match s.sect.state, slotIn .sounding s with
    | .playing, some k => (pauseSlot k s, .done [])
    | _, _ => refuse .state s

def pauseBody (l : Link) : List Byte → Option Action
  | [] => some (pauseAct l)
  | _ => none

/-- PAUSE (02 R38). -/
def execPause (f : Frame) (s : State) : Host.Outcome State Fault Refusal :=
  takeRequest 0x21 .addressed f (pauseBody f.link) s

/-- CONTINUE of the PAUSED slot (02 R40). -/
def continueSlot (k : SlotId) (s : State) : State :=
  sound k (updSlot k (fun x => { x.withAnchor (continueAnchor s x) with pause := none }) s)

def continueAct (l : Link) : Action :=
  unlessTaken l fun s =>
    match s.sect.state, slotIn .paused s with
    | .paused, some k => (continueSlot k s, .done [])
    | _, _ => refuse .state s

def continueBody (l : Link) : List Byte → Option Action
  | [] => some (continueAct l)
  | _ => none

/-- CONTINUE (02 R40). -/
def execContinueCue (f : Frame) (s : State) : Host.Outcome State Fault Refusal :=
  takeRequest 0x22 .addressed f (continueBody f.link) s

/-! ### DROP CUE (02 R41) -/

/-- The slot's record leaves the stack; those above and below keep their order. -/
def leaveStack (k : SlotId) (s : State) : State :=
  { s with arb.stack := s.arb.stack.filter fun r => r.slot != k }

/-- By the slot's state (02 Table 2.5.1). -/
def dropSlot (k : SlotId) (s : State) : State :=
  match s.cue.slots[k].state with
  | .sounding | .paused => handOn (emptySlot k s)
  | .suspended => emptySlot k (leaveStack k s)
  | .waiting => emptySlot k (leaveWaiting k s)
  | .loaded => emptySlot k s
  | .empty => s

def dropCueAct (l : Link) (slot : Byte) : Action :=
  unlessTaken l fun s =>
    match toFin 4 slot with
    | some k => (dropSlot k s, .done [])
    | none => refuse .range s

def dropCueBody (l : Link) : List Byte → Option Action
  | [slot] => some (dropCueAct l slot)
  | _ => none

/-- DROP CUE (02 R41). -/
def execDropCue (f : Frame) (s : State) : Host.Outcome State Fault Refusal :=
  takeRequest 0x23 .addressed f (dropCueBody f.link) s

/-! ### SET MASK (02 R43) -/

/-- The base mask takes the value; in QUIET the best waiting cue is judged against it. -/
def applyMask (mask : Nat) (s : State) : State :=
  let t := { s with arb.baseMask := mask }
  if t.sect.state = .quiet then judgeWaiting t else t

def setMaskAct (l : Link) (mask : Byte) : Action :=
  unlessTaken l fun s => if mask.toNat ≤ 7 then (applyMask mask.toNat s, .done []) else refuse .range s

def setMaskBody (l : Link) : List Byte → Option Action
  | [mask] => some (setMaskAct l mask)
  | _ => none

/-- SET MASK (02 R43). -/
def execSetMask (f : Frame) (s : State) : Host.Outcome State Fault Refusal :=
  takeRequest 0x24 .addressed f (setMaskBody f.link) s

/-! ### SET TRANSPOSE (02 R44) and SET DYNAMICS (02 R45) -/

/-- A setting of a slot, and of its context record while it is SUSPENDED. -/
def changeSetting (k : SlotId) (onSlot : Slot → Slot) (onRecord : ContextRecord → ContextRecord) : Action :=
  fun s =>
    match s.cue.slots[k].state with
    | .empty => refuse .state s
    | .suspended =>
      ({ updSlot k onSlot s with
          arb.stack := s.arb.stack.map fun r => if r.slot = k then onRecord r else r }, .done [])
    | .loaded | .waiting | .sounding | .paused => (updSlot k onSlot s, .done [])

def setTransposeAct (l : Link) (slot value : Byte) : Action :=
  unlessTaken l <|
    match toFin 4 slot with
    | some k =>
      if -24 ≤ s8 value ∧ s8 value ≤ 24 then
        changeSetting k (fun x => { x with transposition := s8 value })
          (fun r => { r with transposition := s8 value })
      else refuse .range
    | none => refuse .range

def setTransposeBody (l : Link) : List Byte → Option Action
  | [slot, value] => some (setTransposeAct l slot value)
  | _ => none

/-- SET TRANSPOSE (02 R44). -/
def execSetTranspose (f : Frame) (s : State) : Host.Outcome State Fault Refusal :=
  takeRequest 0x25 .addressed f (setTransposeBody f.link) s

def setDynamicsAct (l : Link) (slot percent : Byte) : Action :=
  unlessTaken l <|
    match toFin 4 slot with
    | some k =>
      if 25 ≤ percent.toNat ∧ percent.toNat ≤ 200 then
        changeSetting k (fun x => { x with dynamics := percent.toNat })
          (fun r => { r with dynamics := percent.toNat })
      else refuse .range
    | none => refuse .range

def setDynamicsBody (l : Link) : List Byte → Option Action
  | [slot, percent] => some (setDynamicsAct l slot percent)
  | _ => none

/-- SET DYNAMICS (02 R45). -/
def execSetDynamics (f : Frame) (s : State) : Host.Outcome State Fault Refusal :=
  takeRequest 0x26 .addressed f (setDynamicsBody f.link) s

/-! ### READ STACK (02 R46, 10 R183) -/

def readStackSummary : Action := fun s => (s, .done (stackSummary s))

def readStackAt (position : Byte) : Action := fun s =>
  if position.toNat ≤ 2 then (s, .done (stackPosition s position)) else refuse .range s

def readStackBody : List Byte → Option Action
  | [] => some readStackSummary
  | [position] => some (readStackAt position)
  | _ => none

/-- READ STACK (02 R46). -/
def execReadStack (f : Frame) (s : State) : Host.Outcome State Fault Refusal :=
  takeRequest 0x27 .addressed f readStackBody s

end Sys2Proof.Machine
end

