-- ==== Sys2Proof/Machine/CueRequests.lean ====
section
/-! DEFINITION. The requests of the cue engine (chapter 1): OPEN CUE, EVENTS, READ CUE, SET HORIZON, SYNC and
NUDGE. -/

namespace Sys2Proof.Machine

/-! ### OPEN CUE (01 R9) -/

/-- The settings that OPEN CUE carries. -/
structure CueSettings where
  priority : Nat
  tempo : Nat
  beatsPerBar : Nat
  rewindMode : RewindMode
  leadInMs : Nat
  lowWater : Nat
  deriving DecidableEq, Repr

/-- The settings' ranges (01 R9 step 2). -/
def CueSettings.inRange (c : CueSettings) : Bool :=
  c.priority ≤ 7 && 200000 ≤ c.tempo && c.tempo ≤ 2000000 && 1 ≤ c.beatsPerBar && c.beatsPerBar ≤ 16 &&
    20 ≤ c.leadInMs && c.leadInMs ≤ 2000

/-- The opened slot record (01 R9). The waiting order and pause record of an EMPTY slot are absent. -/
def Slot.opened (c : CueSettings) : Slot where
  state := .loaded
  priority := c.priority
  rewindMode := c.rewindMode
  leadInMs := c.leadInMs
  lowWater := c.lowWater
  transposition := 0
  dynamics := 100
  ring := Ring.powerOn
  anchor := .pending c.tempo
  timing := { tempo := c.tempo, barOrigin := 0, beatsPerBar := c.beatsPerBar }
  waitingOrder := none
  pause := none

/-- Checks 3 and 4, and the opening (01 R9). -/
def openSlot (k : SlotId) (c : CueSettings) : Action := fun s =>
  if s.sect.state = .halted ∨ s.sect.state = .hushing ∨ s.cue.slots[k].state ≠ .empty then refuse .state s
  else (updSlot k (fun _ => Slot.opened c) s, .done [])

def openCueAct (l : Link) (slot priority t2 t1 t0 beats mode l1 l0 low : Byte) : Action :=
  unlessTaken l <|
    match toFin 4 slot, RewindMode.ofCode mode with
    | some k, some m =>
      let c : CueSettings :=
        { priority := priority.toNat, tempo := u24 t2 t1 t0, beatsPerBar := beats.toNat, rewindMode := m,
          leadInMs := u16 l1 l0, lowWater := low.toNat }
      if c.inRange then openSlot k c else refuse .range
    | _, _ => refuse .range

def openCueBody (l : Link) : List Byte → Option Action
  | [slot, priority, t2, t1, t0, beats, mode, l1, l0, low] =>
    some (openCueAct l slot priority t2 t1 t0 beats mode l1 l0 low)
  | _ => none

/-- OPEN CUE (01 R9). -/
def execOpenCue (f : Frame) (s : State) : Host.Outcome State Fault Refusal :=
  takeRequest 0x10 .addressed f (openCueBody f.link) s

/-! ### EVENTS (01 R10, R11) -/

/-- Ticks nondecreasing from a lower bound, and nothing after an END (01 R10 step 4). -/
def inOrder (low : Nat) : List Event → Bool
  | [] => true
  | e :: rest => low ≤ e.tick && (e.data != .ending || rest.isEmpty) && inOrder e.tick rest

/-- The events join the ring; a batch with END closes it (01 R11 steps 1 and 2). -/
def Ring.join (es : List Event) (r : Ring) : Ring :=
  { r with unplayed := r.unplayed ++ es, closed := r.closed || es.any fun e => e.data == .ending }

/-- A SOUNDING slot with its anchor pending anchors at the first event of the batch (01 R11 step 3). -/
def anchorAtBatch (showNow : Time) (es : List Event) (x : Slot) : Slot :=
  match x.state, x.anchor, es with
  | .sounding, .pending p, e :: _ => x.withAnchor (.set e.tick (showNow + x.leadIn) p)
  | _, _, _ => x

/-- Checks 3 to 5, and the joining (01 R10, R11). -/
def writeEvents (k : SlotId) (es : List Event) : Action := fun s =>
  let x := s.cue.slots[k]
  if s.sect.state = .halted ∨ x.state = .empty ∨ x.ring.closed = true then refuse .state s
  else if inOrder (x.ring.lastTick.getD 0) es = false then refuse .order s
  else if x.ring.freeCount < es.length then refuse .full s
  else (updSlot k (fun y => anchorAtBatch s.showNow es { y with ring := y.ring.join es }) s, .done [])

def eventsAct (l : Link) (slot count : Byte) (records : List Byte) : Action :=
  unlessTaken l <|
    match toFin 4 slot, allEvents (eventRecords records) with
    | some k, some es => if 1 ≤ count.toNat ∧ count.toNat ≤ 6 then writeEvents k es else refuse .range
    | _, _ => refuse .range

def eventsBody (l : Link) : List Byte → Option Action
  | slot :: count :: records =>
    if records.length = 8 * count.toNat then some (eventsAct l slot count records) else none
  | _ => none

/-- EVENTS (01 R10, R11). -/
def execEvents (f : Frame) (s : State) : Host.Outcome State Fault Refusal :=
  takeRequest 0x11 .addressed f (eventsBody f.link) s

/-! ### READ CUE (01 R12) -/

def readCueSummary (slot : Byte) : Action := fun s =>
  match toFin 4 slot with
  | some k => (s, .done (cueSummary s.cue.slots[k]))
  | none => refuse .range s

def readCueEntry (slot index : Byte) : Action := fun s =>
  match toFin 4 slot with
  | some k =>
    match s.cue.slots[k].ring.entry index.toNat with
    | some (e, note) => (s, .done (entryData index e note))
    | none => refuse .range s
  | none => refuse .range s

def readCueBody : List Byte → Option Action
  | [slot] => some (readCueSummary slot)
  | [slot, index] => some (readCueEntry slot index)
  | _ => none

/-- READ CUE (01 R12). -/
def execReadCue (f : Frame) (s : State) : Host.Outcome State Fault Refusal :=
  takeRequest 0x12 .addressed f readCueBody s

/-! ### SET HORIZON (01 R18) -/

def setHorizonAct (l : Link) (ms : Byte) : Action :=
  unlessTaken l fun s =>
    if 5 ≤ ms.toNat ∧ ms.toNat ≤ 100 then ({ s with cue.horizonMs := ms.toNat }, .done []) else refuse .range s

def setHorizonBody (l : Link) : List Byte → Option Action
  | [ms] => some (setHorizonAct l ms)
  | _ => none

/-- SET HORIZON (01 R18). -/
def execSetHorizon (f : Frame) (s : State) : Host.Outcome State Fault Refusal :=
  takeRequest 0x13 .addressed f (setHorizonBody f.link) s

/-! ### SYNC (01 R25) -/

/-- The change of the sync offset (01 Table 1.8.1). -/
def syncStep (d : Int) : Int :=
  if -20000 ≤ d ∧ d ≤ 20000 then max (-250) (min 250 d) else d

/-- CLOCK_SLIP, above 20,000 µs of difference (01 Table 1.8.1). -/
def syncSlips (d : Int) : Bool := d < -20000 || 20000 < d

/-- SYNC acts with the master show time and the completion part time of its frame (01 R25). -/
def syncAct (completed : Time) (master : Nat) : Action := fun s =>
  let d := (master : Int) - (completed + s.cue.syncOffset)
  let t := { s with cue.syncOffset := s.cue.syncOffset + syncStep d }
  (if syncSlips d then
      raise { kind := .clockSlip, origin := .clock, detail := .clock d t.cue.syncOffset } t
    else t, .done [])

def syncBody (completed : Time) : List Byte → Option Action
  | [a, b, c, d, e, f] => some (syncAct completed (u48 a b c d e f))
  | _ => none

/-- SYNC (01 R25). -/
def execSync (f : Frame) (s : State) : Host.Outcome State Fault Refusal :=
  takeTimedRequest 0x14 .broadcastOnly f syncBody s

/-! ### NUDGE (01 R26) -/

/-- The nudged tempo, held within 200,000 to 2,000,000. -/
def nudgedTempo (n : Int) (tempo : Nat) : Nat :=
  max 200000 (min 2000000 (((tempo : Int) * (100 - n)).tdiv 100).toNat)

/-- The nudge tick of a slot whose anchor is set: the entry at the commit cursor, or the last one written. A ring
with no entry keeps the anchor tick; no run has one with a set anchor (log 20). -/
def Slot.nudgeTick (x : Slot) (anchorTick : Nat) : Nat :=
  match x.ring.commitTick, x.ring.lastTick with
  | some t, _ => t
  | none, some t => t
  | none, none => anchorTick

/-- The nudged anchor (01 R26). -/
def Slot.nudgedAnchor (n : Int) (x : Slot) : Anchor :=
  match x.anchor with
  | .pending p => .pending (nudgedTempo n p)
  | .set t d p => .set (x.nudgeTick t) (dueAt t d p (x.nudgeTick t)) (nudgedTempo n p)

def nudgeAct (l : Link) (percent : Byte) : Action :=
  unlessTaken l fun s =>
    if -10 ≤ s8 percent ∧ s8 percent ≤ 10 then
      match slotIn .sounding s with
      | some k => (updSlot k (fun x => x.withAnchor (x.nudgedAnchor (s8 percent))) s, .done [])
      | none => refuse .state s
    else refuse .range s

def nudgeBody (l : Link) : List Byte → Option Action
  | [percent] => some (nudgeAct l percent)
  | _ => none

/-- NUDGE (01 R26). -/
def execNudge (f : Frame) (s : State) : Host.Outcome State Fault Refusal :=
  takeRequest 0x15 .everyForm f (nudgeBody f.link) s

end Sys2Proof.Machine
end

