-- ==== Sys2Proof/Machine/DriveRequests.lean ====
section
/-! DEFINITION. The drive unit (chapter 6): its requests, and the events PULSE_END, RECOVERY_END, SHORT_REPORT and
RAMP_TIMER_EXPIRY. -/

namespace Sys2Proof.Machine

/-! ### Strike channels (06 R117 to R120) -/

/-- The three settings of SET CHANNEL (06 R119). -/
structure ChannelSettings where
  rail : RailId
  currentClass : Nat
  recoveryMs : Nat
  deriving DecidableEq, Repr

/-- The settings' ranges (06 R119 step 2). -/
def ChannelSettings.inRange (c : ChannelSettings) : Bool :=
  1 ≤ c.currentClass && c.currentClass ≤ 8 && 2 ≤ c.recoveryMs && c.recoveryMs ≤ 60

/-- The record takes the three settings; a channel that is not DRIVING takes a new ready time (06 R119). -/
def StrikeChannel.configured (g : ChannelSettings) (c : StrikeChannel) : StrikeChannel :=
  let set := { c with rail := g.rail, currentClass := g.currentClass, recoveryMs := g.recoveryMs }
  match c.state, c.lastPulseEnd with
  | .driving _, _ => set
  | _, some t => { set with readyTime := t + set.recoveryTime }
  | _, none => { set with readyTime := 0 }

/-- A channel that is not DRIVING becomes RECOVER until a ready time after now, and otherwise its recovery ends at
once (06 R119). -/
def settleChannel (c : ChannelId) (noCurrent : Bool) (s : State) : State :=
  match s.drive.strikes[c].state with
  | .driving _ => s
  | .idle | .recover =>
    if s.now < s.drive.strikes[c].readyTime then updStrike c (fun x => { x with state := .recover }) s
    else endRecovery c noCurrent s

def configureChannel (c : ChannelId) (g : ChannelSettings) (noCurrent : Bool) : Action := fun s =>
  if s.configurable then (settleChannel c noCurrent (updStrike c (.configured g) s), .done [])
  else refuse .state s

def setChannelAct (l : Link) (noCurrent : Bool) (channel rail cls recovery : Byte) : Action :=
  unlessTaken l <|
    match toFin 96 channel, toFin 4 rail with
    | some c, some r =>
      let g : ChannelSettings := { rail := r, currentClass := cls.toNat, recoveryMs := recovery.toNat }
      if g.inRange then configureChannel c g noCurrent else refuse .range
    | _, _ => refuse .range

def setChannelBody (l : Link) (noCurrent : Bool) : List Byte → Option Action
  | [channel, rail, cls, recovery] => some (setChannelAct l noCurrent channel rail cls recovery)
  | _ => none

/-- SET CHANNEL (06 R119). `noCurrent`: the sense result of a pulse that begins in this event. -/
def execSetChannel (f : Frame) (noCurrent : Bool) (s : State) : Host.Outcome State Fault Refusal :=
  takeRequest 0x60 .addressed f (setChannelBody f.link noCurrent) s

def readChannelAct (which : Byte) : Action := fun s =>
  match designation which with
  | some d => (s, .done (channelData s d))
  | none => refuse .range s

def readChannelBody : List Byte → Option Action
  | [which] => some (readChannelAct which)
  | _ => none

/-- READ CHANNEL (06 R120). -/
def execReadChannel (f : Frame) (s : State) : Host.Outcome State Fault Refusal :=
  takeRequest 0x61 .addressed f readChannelBody s

/-- FENCE is accepted in SERVICE from either link (06 R117). -/
def fenceAct (channel : Byte) : Action := fun s =>
  match toFin 96 channel with
  | some c => (updStrike c (.takeOut s.now) s, .done [])
  | none => refuse .range s

def fenceBody : List Byte → Option Action
  | [channel] => some (fenceAct channel)
  | _ => none

/-- FENCE (06 R117). -/
def execFence (f : Frame) (s : State) : Host.Outcome State Fault Refusal :=
  takeRequest 0x62 .addressed f fenceBody s

def unfenceAct (l : Link) (channel : Byte) : Action :=
  unlessTaken l fun s =>
    match toFin 96 channel with
    | some c => (updStrike c (fun x => { x with fenced := false }) s, .done [])
    | none => refuse .range s

def unfenceBody (l : Link) : List Byte → Option Action
  | [channel] => some (unfenceAct l channel)
  | _ => none

/-- UNFENCE (06 R118). -/
def execUnfence (f : Frame) (s : State) : Host.Outcome State Fault Refusal :=
  takeRequest 0x63 .addressed f (unfenceBody f.link) s

/-! ### Hold and rotor channels (06 R122, R126) -/

def setHoldChannelAct (l : Link) (channel rail load1 load0 : Byte) : Action :=
  unlessTaken l fun s =>
    match toFin 4 channel, toFin 4 rail with
    | some h, some r =>
      if u16 load1 load0 ≤ 1023 then
        if s.configurable then
          (updHold h (fun x => { x with rail := r, load := u16 load1 load0 }) s, .done [])
        else refuse .state s
      else refuse .range s
    | _, _ => refuse .range s

def setHoldChannelBody (l : Link) : List Byte → Option Action
  | [channel, rail, load1, load0] => some (setHoldChannelAct l channel rail load1 load0)
  | _ => none

/-- SET HOLD CHANNEL (06 R122). -/
def execSetHoldChannel (f : Frame) (s : State) : Host.Outcome State Fault Refusal :=
  takeRequest 0x64 .addressed f (setHoldChannelBody f.link) s

def setRotorChannelAct (l : Link) (channel rail load1 load0 step : Byte) : Action :=
  unlessTaken l fun s =>
    match toFin 2 channel, toFin 4 rail with
    | some m, some r =>
      if u16 load1 load0 ≤ 1023 ∧ 1 ≤ step.toNat ∧ step.toNat ≤ 40 then
        if s.configurable then
          (updRotor m (fun x => { x with rail := r, load := u16 load1 load0, rampStep := step.toNat }) s, .done [])
        else refuse .state s
      else refuse .range s
    | _, _ => refuse .range s

def setRotorChannelBody (l : Link) : List Byte → Option Action
  | [channel, rail, load1, load0, step] => some (setRotorChannelAct l channel rail load1 load0 step)
  | _ => none

/-- SET ROTOR CHANNEL (06 R126). -/
def execSetRotorChannel (f : Frame) (s : State) : Host.Outcome State Fault Refusal :=
  takeRequest 0x65 .addressed f (setRotorChannelBody f.link) s

/-! ### Pendant tests (06 R128, R129) -/

/-- The TEST firing of a request (04 R67): lane 0, the curve's width, fire time now. -/
def testShot (c : ChannelId) (velocity : Nat) (curve : CurveId) (s : State) : Shot :=
  shotFor c 0 velocity (widthAt s.pitch.curves[curve] velocity) s

/-- The reply of TEST FIRE: firing number (4), width (2), charge (2). -/
def testReply (number : BitVec 32) (sh : Shot) : List Byte :=
  be32 number.toNat ++ be16 sh.width ++ be16 sh.charge

/-- The TEST firing is placed, and reaches RAIL_WAIT in the same event (04 R67, R74). The list of a section in SERVICE
holds TEST firings alone (R67), and each has arrived in the event that placed it, so none in front of it waits. -/
def placeTest (sh : Shot) (s : State) : State :=
  arrive (nextFiring s.now (.test sh) s) (placeFiring s.now (.test sh) s)

def testFireAct (channel velocity curve : Byte) : Action := fun s =>
  match toFin 96 channel, toFin 8 curve with
  | some c, some v =>
    if 1 ≤ velocity.toNat ∧ velocity.toNat ≤ 127 then
      if s.sect.state ≠ .service then refuse .state s
      else if s.fireListFull then refuse .full s
      else
        let sh := testShot c velocity.toNat v s
        (placeTest sh s, .done (testReply (s.sched.placementCounter + 1) sh))
    else refuse .range s
  | _, _ => refuse .range s

def testFireBody : List Byte → Option Action
  | [channel, velocity, curve] => some (testFireAct channel velocity curve)
  | _ => none

/-- TEST FIRE (06 R128). -/
def execTestFire (f : Frame) (s : State) : Host.Outcome State Fault Refusal :=
  takeRequest 0x66 .pendantOnly f testFireBody s

def testHoldAct (channel on : Byte) : Action := fun s =>
  match toFin 4 channel, yesNo on with
  | some h, some b => if s.sect.state = .service then (switchHold h b s, .done []) else refuse .state s
  | _, _ => refuse .range s

def testHoldBody : List Byte → Option Action
  | [channel, on] => some (testHoldAct channel on)
  | _ => none

/-- TEST HOLD (06 R129). -/
def execTestHold (f : Frame) (s : State) : Host.Outcome State Fault Refusal :=
  takeRequest 0x67 .pendantOnly f testHoldBody s

def testRotorAct (channel target : Byte) : Action := fun s =>
  match toFin 2 channel with
  | some m =>
    if target.toNat ≤ 120 then
      if s.sect.state = .service then
        let t := setRotorTarget m target.toNat s
        (t, .done [byteOf t.drive.rotors[m].target, byteOf t.drive.rotors[m].current])
      else refuse .state s
    else refuse .range s
  | none => refuse .range s

def testRotorBody : List Byte → Option Action
  | [channel, target] => some (testRotorAct channel target)
  | _ => none

/-- TEST ROTOR (06 R129). -/
def execTestRotor (f : Frame) (s : State) : Host.Outcome State Fault Refusal :=
  takeRequest 0x68 .pendantOnly f testRotorBody s

/-! ### Events of the channels -/

/-- The end time of the channel's pulse in drive, when it has come (06 R113). -/
def pulseEndDue (s : State) (c : ChannelId) : Option Time :=
  match s.drive.strikes[c].state with
  | .driving p => if p.endTime ≤ s.now then some p.endTime else none
  | .idle | .recover => none

/-- PULSE_END (06 R113): the last pulse end is the end time. -/
def execPulseEnd (c : ChannelId) (s : State) : Host.Outcome State Fault Refusal :=
  match pulseEndDue s c with
  | some t => event (updStrike c (.stopAt t)) s
  | none => .next s

/-- A RECOVER channel's ready time has come (06 R114). -/
def recoveryDue (s : State) (c : ChannelId) : Bool :=
  match s.drive.strikes[c].state with
  | .recover => s.drive.strikes[c].readyTime ≤ s.now
  | .idle | .driving _ => false

/-- RECOVERY_END (06 R114). -/
def execRecoveryEnd (c : ChannelId) (noCurrent : Bool) (s : State) : Host.Outcome State Fault Refusal :=
  if recoveryDue s c then event (endRecovery c noCurrent) s else .next s

/-- The width that DRIVE_SHORT names: of the pulse cut, or of the last that drove (06 R115 step 5; log 13). -/
def StrikeChannel.shortWidth (c : StrikeChannel) : Nat :=
  match c.state with
  | .driving p => p.pulse.width
  | .idle | .recover => c.lastWidth

/-- Steps 1 to 4 of a SHORT report on the record (06 R115). -/
def StrikeChannel.shorted (now : Time) (c : StrikeChannel) : StrikeChannel :=
  { c.takeOut now with lastSense := .shorted }

/-- A SHORT report (06 R115). -/
def takeShort (c : ChannelId) (s : State) : State :=
  raise { kind := .driveShort, origin := .channel c, detail := .drive c s.drive.strikes[c].shortWidth }
    (updStrike c (.shorted s.now) s)

/-- SHORT_REPORT (06 R115). -/
def execShortReport (c : ChannelId) (s : State) : Host.Outcome State Fault Refusal := event (takeShort c) s

end Sys2Proof.Machine
end

