-- ==== Sys2Proof/Machine/FaultRequests.lean ====
section
/-! DEFINITION. The fault monitor's requests (chapter 8) and the exchange words' (09 R178, R179). -/

namespace Sys2Proof.Machine

/-! ### Faults (08 R154 to R157) -/

def readFaultsBody : List Byte → Option Action
  | [] => some fun s => (s, .done (faultsData s.fault))
  | _ => none

/-- READ FAULTS (08 R154). -/
def execReadFaults (f : Frame) (s : State) : Host.Outcome State Fault Refusal :=
  takeRequest 0x80 .addressed f readFaultsBody s

/-- A change of the kind records of a set. -/
def changeKinds (set : BitVec 13) (f : KindRecord → KindRecord) (s : State) : State :=
  { s with fault.kinds := (allFin 13).foldl (fun v k => if set.getLsbD k.val then upd v k f else v) s.fault.kinds }

def clearFaultsAct (a b : Byte) : Action := fun s =>
  match kindSet a b with
  | some set =>
    let t := changeKinds set (fun k => { k with status := false }) s
    (t, .done (statusData t.fault))
  | none => refuse .range s

def clearFaultsBody : List Byte → Option Action
  | [a, b] => some (clearFaultsAct a b)
  | _ => none

/-- CLEAR FAULTS (08 R155). -/
def execClearFaults (f : Frame) (s : State) : Host.Outcome State Fault Refusal :=
  takeRequest 0x81 .addressed f clearFaultsBody s

def setFaultMaskAct (a b value : Byte) : Action := fun s =>
  match kindSet a b, yesNo value with
  | some set, some masked =>
    let t := changeKinds set (fun k => { k with masked := masked }) s
    (t, .done (maskData t.fault))
  | _, _ => refuse .range s

def setFaultMaskBody : List Byte → Option Action
  | [a, b, value] => some (setFaultMaskAct a b value)
  | _ => none

/-- SET FAULT MASK (08 R156). -/
def execSetFaultMask (f : Frame) (s : State) : Host.Outcome State Fault Refusal :=
  takeRequest 0x82 .addressed f setFaultMaskBody s

/-- DRIVE_SHORT's severity is fixed (08 R157). -/
def setSeverityAct (kind severity : Byte) : Action := fun s =>
  match toFin 13 kind, Severity.ofCode severity with
  | some k, some v =>
    if k = ErrorKind.driveShort.number then refuse .range s
    else
      ({ s with fault.kinds := upd s.fault.kinds k fun x => { x with severity := v } },
        .done [finByte k, v.code])
  | _, _ => refuse .range s

def setSeverityBody : List Byte → Option Action
  | [kind, severity] => some (setSeverityAct kind severity)
  | _ => none

/-- SET SEVERITY (08 R157). -/
def execSetSeverity (f : Frame) (s : State) : Host.Outcome State Fault Refusal :=
  takeRequest 0x83 .addressed f setSeverityBody s

/-! ### Capture and counts (08 R154, R158, R159) -/

def readCaptureBody : List Byte → Option Action
  | [] => some fun s => (s, .done (captureData s.fault.capture))
  | _ => none

/-- READ CAPTURE (08 R154). -/
def execReadCapture (f : Frame) (s : State) : Host.Outcome State Fault Refusal :=
  takeRequest 0x84 .addressed f readCaptureBody s

def clearCaptureBody : List Byte → Option Action
  | [] => some fun s => ({ s with fault.capture := none }, .done [])
  | _ => none

/-- CLEAR CAPTURE (08 R158). -/
def execClearCapture (f : Frame) (s : State) : Host.Outcome State Fault Refusal :=
  takeRequest 0x85 .addressed f clearCaptureBody s

/-- The counts are reported and then, with the clear option, set to 0 (08 R159). -/
def readCountsAct (clear : Byte) : Action := fun s =>
  match yesNo clear with
  | some true =>
    ({ s with fault.kinds := mapAll (fun k => { k with count := 0 }) s.fault.kinds }, .done (countsData s.fault))
  | some false => (s, .done (countsData s.fault))
  | none => refuse .range s

def readCountsBody : List Byte → Option Action
  | [clear] => some (readCountsAct clear)
  | _ => none

/-- READ COUNTS (08 R159). -/
def execReadCounts (f : Frame) (s : State) : Host.Outcome State Fault Refusal :=
  takeRequest 0x86 .addressed f readCountsBody s

/-! ### Attention (08 R162 to R164) -/

def readAttentionBody : List Byte → Option Action
  | [] => some fun s => (s, .done (attentionData s.fault))
  | _ => none

/-- READ ATTENTION (08 R162). -/
def execReadAttention (f : Frame) (s : State) : Host.Outcome State Fault Refusal :=
  takeRequest 0x87 .addressed f readAttentionBody s

def clearAttentionAct (a b : Byte) : Action := fun s =>
  let t := { s with fault.flags := s.fault.flags &&& ~~~flagSetOf a b }
  (t, .done (setBytes t.fault.flags))

def clearAttentionBody : List Byte → Option Action
  | [a, b] => some (clearAttentionAct a b)
  | _ => none

/-- CLEAR ATTENTION (08 R162). -/
def execClearAttention (f : Frame) (s : State) : Host.Outcome State Fault Refusal :=
  takeRequest 0x88 .addressed f clearAttentionBody s

/-- The reply of MASK and UNMASK ATTENTION: the mask and the line drive (08 R163). -/
def maskReply (m : FaultMonitor) : Reply := .done (setBytes m.mask ++ [boolByte (attentionLine m)])

def maskAttentionAct (a b : Byte) : Action := fun s =>
  let t := { s with fault.mask := s.fault.mask ||| flagSetOf a b }
  (t, maskReply t.fault)

def maskAttentionBody : List Byte → Option Action
  | [a, b] => some (maskAttentionAct a b)
  | _ => none

/-- MASK ATTENTION (08 R163). -/
def execMaskAttention (f : Frame) (s : State) : Host.Outcome State Fault Refusal :=
  takeRequest 0x89 .addressed f maskAttentionBody s

def unmaskAttentionAct (a b : Byte) : Action := fun s =>
  let t := { s with fault.mask := s.fault.mask &&& ~~~flagSetOf a b }
  (t, maskReply t.fault)

def unmaskAttentionBody : List Byte → Option Action
  | [a, b] => some (unmaskAttentionAct a b)
  | _ => none

/-- UNMASK ATTENTION (08 R163). -/
def execUnmaskAttention (f : Frame) (s : State) : Host.Outcome State Fault Refusal :=
  takeRequest 0x8A .addressed f unmaskAttentionBody s

def callAct (number : Byte) : Action := fun s =>
  match toFin 4 number with
  | some n => (setFlag (.pendantCall n) s, .done [])
  | none => refuse .range s

def callBody : List Byte → Option Action
  | [number] => some (callAct number)
  | _ => none

/-- CALL (08 R164). -/
def execCall (f : Frame) (s : State) : Host.Outcome State Fault Refusal :=
  takeRequest 0x8B .pendantOnly f callBody s

/-! ### Exchange words (09 R178, R179) -/

/-- First word 0 to 7, a count of 1 to 8, and the two together at most 8. -/
def exchangeRange (first count : Nat) : Bool := first ≤ 7 && 1 ≤ count && first + count ≤ 8

def readExchangeAct (first count : Byte) : Action := fun s =>
  if exchangeRange first.toNat count.toNat then
    (s, .done (wordsData s.settings first.toNat count.toNat))
  else refuse .range s

def readExchangeBody : List Byte → Option Action
  | [first, count] => some (readExchangeAct first count)
  | _ => none

/-- READ EXCHANGE (09 R178). -/
def execReadExchange (f : Frame) (s : State) : Host.Outcome State Fault Refusal :=
  takeRequest 0x90 .addressed f readExchangeBody s

/-- The words of a body, two bytes each. -/
def wordList : List Byte → List (BitVec 16)
  | a :: b :: rest => (a ++ b) :: wordList rest
  | _ => []

/-- Each value into its word, from the first onward. -/
def writeWords : Nat → List (BitVec 16) → Vector (BitVec 16) 8 → Vector (BitVec 16) 8
  | _, [], v => v
  | i, w :: rest, v => writeWords (i + 1) rest (v.setIfInBounds i w)

def storeWords (first count : Nat) (values : List (BitVec 16)) (s : State) : State × Reply :=
  let t := { s with settings.exchange := writeWords first values s.settings.exchange }
  (t, .done (wordsData t.settings first count))

/-- A write with no expected value, or with the expected value of the first word (09 R179). -/
def writeExchangeAct (first count : Byte) (values : List (BitVec 16)) (expected : Option (BitVec 16)) : Action :=
  fun s =>
    if exchangeRange first.toNat count.toNat then
      let present := s.settings.exchange.toList.getD first.toNat 0
      match expected with
      | none => storeWords first.toNat count.toNat values s
      | some e =>
        if present = e then storeWords first.toNat count.toNat values s
        else (s, { code := .conflict, data := be16 present.toNat })
    else refuse .range s

def writeExchangeBody : List Byte → Option Action
  | first :: count :: rest =>
    let words := wordList rest
    if rest.length = 2 * count.toNat then some (writeExchangeAct first count words none)
    else if rest.length = 2 * count.toNat + 2 then
      some (writeExchangeAct first count (words.take count.toNat) words[count.toNat]?)
    else none
  | _ => none

/-- WRITE EXCHANGE (09 R179). -/
def execWriteExchange (f : Frame) (s : State) : Host.Outcome State Fault Refusal :=
  takeRequest 0x91 .addressed f writeExchangeBody s

end Sys2Proof.Machine
end

