-- ==== Sys2Proof/Machine/LinkEvents.lean ====
section
/-! DEFINITION. POWER_ON, the line events of the two links (chapter 9), and a frame whose kind names no request. -/

namespace Sys2Proof.Machine

/-- POWER_ON (01 R13, 09 R165). -/
def execPowerOn (address : BitVec 5) (rate : BitVec 2) (showAtSpace serviceAtSpace : Bool) (s : State) :
    Host.Outcome State Fault Refusal :=
  .next (State.powerOn address rate showAtSpace serviceAtSpace s.freeCount s.pending)

/-! ### Characters -/

def setReceiver (l : Link) (r : ReceiverState) (s : State) : State :=
  updUnit l (fun u => { u with receiver := r }) s

/-- Any character taken clears the break flag (09 R169). -/
def clearBreak (l : Link) (s : State) : State := updUnit l (fun u => { u with breakFlag := false }) s

/-- The frame that an address character opens, with the running check begun (09 R169). -/
def openFrame (value : Byte) : Assembly :=
  { address := value, length := none, body := [], check := checkByte 0 value }

/-- The frame in assembly is discarded with LINK_TRUNCATED (09 R169). -/
def truncate (l : Link) (s : State) : State :=
  match (s.unit l).receiver with
  | .collect f => raise (linkError .linkTruncated l f.detail) s
  | .hunt | .skip => s

/-- The new address value is judged afresh (09 R169, R177). -/
def judgeAddress (l : Link) (value : Byte) (s : State) : State :=
  setReceiver l (if takesAddress s.settings l value then .collect (openFrame value) else .skip) s

/-- ADDRESS_CHARACTER (09 R169); no character is taken while the line is at space after a break (R171). -/
def execAddressCharacter (l : Link) (value : Byte) (s : State) : Host.Outcome State Fault Refusal :=
  if (s.unit l).deaf then .next s
  else event (fun t => judgeAddress l value (clearBreak l (truncate l t))) s

/-- The first data character, the length (09 R170 step 1). -/
def takeLength (l : Link) (f : Assembly) (value : Byte) (s : State) : State :=
  if 2 ≤ value.toNat ∧ value.toNat ≤ 60 then
    setReceiver l (.collect { f with length := some value, check := checkByte f.check value }) s
  else
    raise (linkError .linkFraming l (.link (some f.address) (some value) [])) (setReceiver l .skip s)

/-- A completed frame with a good check: into a free buffer, or lost to LINK_OVERRUN (09 R170 step 3). -/
def completeFrame (l : Link) (f : Assembly) (s : State) : State :=
  if (s.unit l).bufferFree then
    acceptFrame l { address := f.address, body := f.body, completed := s.now } s
  else
    raise (linkError .linkOverrun l f.detail) s

/-- The check character (09 R170 step 3, R167). -/
def takeCheck (l : Link) (f : Assembly) (value : Byte) (s : State) : State :=
  let t := setReceiver l .hunt s
  if f.check = value then completeFrame l f t else raise (linkError .linkCheck l f.detail) t

/-- A data character in COLLECT, by the count of characters gathered (09 R170). -/
def takeData (l : Link) (f : Assembly) (value : Byte) (s : State) : State :=
  match f.length with
  | none => takeLength l f value s
  | some n =>
    if f.body.length < n.toNat then
      setReceiver l (.collect { f with body := f.body ++ [value], check := checkByte f.check value }) s
    else takeCheck l f value s

/-- DATA_CHARACTER (09 R170): in HUNT and SKIP it is discarded. -/
def execDataCharacter (l : Link) (value : Byte) (s : State) : Host.Outcome State Fault Refusal :=
  if (s.unit l).deaf then .next s
  else match (s.unit l).receiver with
    | .collect f => event (fun t => takeData l f value (clearBreak l t)) s
    | .hunt | .skip => event (clearBreak l) s

/-- FRAMING_ERROR (09 R171). The character is discarded as a character, and does not clear the break flag (log 15). -/
def execFramingError (l : Link) (s : State) : Host.Outcome State Fault Refusal :=
  if (s.unit l).deaf then .next s
  else match (s.unit l).receiver with
    | .collect f => event (fun t => raise (linkError .linkFraming l f.detail) (setReceiver l .hunt t)) s
    | .skip => event (setReceiver l .hunt) s
    | .hunt => .next s

/-! ### The line -/

/-- The line has been at space for two character times, and the break is not recognised yet (09 R171; log 18). -/
def breakDue (s : State) (l : Link) : Bool :=
  match (s.unit l).spaceStart with
  | some t => !(s.unit l).breakFlag && charsElapsed s l 2 t
  | none => false

/-- BREAK (09 R171): the break flag, and HUNT; it raises nothing (log 15). -/
def execBreakCondition (l : Link) (s : State) : Host.Outcome State Fault Refusal :=
  if breakDue s l then event (updUnit l fun u => { u with breakFlag := true, receiver := .hunt }) s
  else .next s

/-- The show link's line has been at space for 2,000 µs with the cause latch clear (09 R172). -/
def longBreakDue (s : State) : Bool :=
  match s.showUnit.spaceStart with
  | some t => !s.showUnit.causeLatch && t + 2000 ≤ s.now
  | none => false

/-- The break cause acts while break hush is enabled (07 R136). -/
def breakCause (s : State) : State := if s.sect.breakHush then causeHush s else s

/-- LONG_BREAK (09 R172). -/
def execLongBreak (s : State) : Host.Outcome State Fault Refusal :=
  if longBreakDue s then event (fun t => breakCause { t with showUnit.causeLatch := true }) s else .next s

/-- The line at mark: no space start, and on the show link the cause latch clear (09 R168, R172). -/
def LinkUnit.atMark (u : LinkUnit) : LinkUnit := { u with spaceStart := none, causeLatch := false }

/-- LINE_RETURN_TO_MARK (09 R168, R171, R172). -/
def execLineReturnToMark (l : Link) (s : State) : Host.Outcome State Fault Refusal :=
  event (updUnit l LinkUnit.atMark) s

/-- The line goes to space now, if it was at mark (09 R168). -/
def LinkUnit.toSpace (now : Time) (u : LinkUnit) : LinkUnit :=
  match u.spaceStart with
  | none => { u with spaceStart := some now }
  | some _ => u

/-- MARK_TO_SPACE (09 R168). -/
def execMarkToSpace (l : Link) (s : State) : Host.Outcome State Fault Refusal :=
  event (fun t => updUnit l (.toSpace t.now) t) s

/-! ### The reply shifter -/

/-- The last stop bit of the frame in the shifter has been sent (09 R176; log 18). -/
def transmissionDone (s : State) (l : Link) : Bool :=
  match (s.unit l).shifter with
  | some x => charsElapsed s l (x.frame.body.length + 3) x.since
  | none => false

/-- The waiting reply begins, or the shifter goes idle (09 R176). -/
def LinkUnit.shiftNext (now : Time) (u : LinkUnit) : LinkUnit :=
  { u with shifter := u.replySlot.map fun r => { frame := r, since := now }, replySlot := none }

/-- REPLY_TRANSMISSION_END (09 R176). -/
def execReplyTransmissionEnd (l : Link) (s : State) : Host.Outcome State Fault Refusal :=
  if transmissionDone s l then event (fun t => updUnit l (.shiftNext t.now) t) s else .next s

/-! ### Frames of no request -/

/-- UNKNOWN_REQUEST (09 R174 steps 1 and 2). A kind byte that names a request is another command's frame. -/
def execUnknownRequest (kind : Byte) (f : Frame) (s : State) : Host.Outcome State Fault Refusal :=
  if requestKinds.contains kind then .next s
  else takeRequest kind .addressed f (fun _ => some (refuse .unknown)) s

end Sys2Proof.Machine
end

