-- ==== Sys2Proof/Machine/PitchRequests.lean ====
section
/-! DEFINITION. The requests of the pitch map (chapter 3): windows, groups, curves and lanes. -/

namespace Sys2Proof.Machine

/-! ### Windows (03 R50, R52) -/

/-- The constraints of 03 Table 3.2.1, which hold for disabled windows too. -/
def Window.valid (w : Window) : Bool :=
  w.firstPitch ≤ 127 && 1 ≤ w.count && w.count ≤ 128 && w.firstGroup ≤ 47 &&
    w.firstPitch + w.count ≤ 128 && w.firstGroup + w.count ≤ 48

/-- The lowest-numbered other enabled window that a new window overlaps (03 R50). -/
def overlapWith (i : WindowId) (w : Window) (p : PitchMap) : Option WindowId :=
  (allFin 8).find? fun j => j != i && p.windows[j].overlaps w

/-- Checks 3 and 4 of R48, and the replacement. -/
def replaceWindow (i : WindowId) (w : Window) : Action := fun s =>
  if s.configurable then
    match overlapWith i w s.pitch with
    | some j => (s, { code := .conflict, data := [finByte j] })
    | none => ({ s with pitch.windows := upd s.pitch.windows i fun _ => w }, .done [])
  else refuse .state s

def setWindowAct (l : Link) (window enabled firstPitch count firstGroup : Byte) : Action :=
  unlessTaken l <|
    match toFin 8 window, yesNo enabled with
    | some i, some e =>
      let w : Window :=
        { enabled := e, firstPitch := firstPitch.toNat, count := count.toNat, firstGroup := firstGroup.toNat }
      if w.valid then replaceWindow i w else refuse .range
    | _, _ => refuse .range

def setWindowBody (l : Link) : List Byte → Option Action
  | [window, enabled, firstPitch, count, firstGroup] =>
    some (setWindowAct l window enabled firstPitch count firstGroup)
  | _ => none

/-- SET WINDOW (03 R50). -/
def execSetWindow (f : Frame) (s : State) : Host.Outcome State Fault Refusal :=
  takeRequest 0x30 .addressed f (setWindowBody f.link) s

/-- By window (form 0) or by pitch (form 1); another form is no code of its field (10 R180). -/
def readWindowAct (form value : Byte) : Action := fun s =>
  match yesNo form with
  | some false =>
    match toFin 8 value with
    | some i => (s, .done (windowData s.pitch.windows[i]))
    | none => refuse .range s
  | some true =>
    if value.toNat ≤ 127 then (s, .done (pitchData s.pitch value.toNat)) else refuse .range s
  | none => refuse .range s

def readWindowBody : List Byte → Option Action
  | [form, value] => some (readWindowAct form value)
  | _ => none

/-- READ WINDOW (03 R52). -/
def execReadWindow (f : Frame) (s : State) : Host.Outcome State Fault Refusal :=
  takeRequest 0x31 .addressed f readWindowBody s

/-! ### Groups (03 R54 to R56) -/

/-- The first channel of a list that is a member of another group, with that group (03 R54). -/
def memberElsewhere (g : GroupId) (d : DriveUnit) : List ChannelId → Option (ChannelId × GroupId)
  | [] => none
  | c :: rest =>
    match d.strikes[c].group with
    | some h => if h = g then memberElsewhere g d rest else some (c, h)
    | none => memberElsewhere g d rest

/-- The group membership of every channel of a list (03 R55). -/
def setMembership (value : Option GroupId) (channels : List ChannelId) (s : State) : State :=
  channels.foldl (fun t c => updStrike c (fun x => { x with group := value }) t) s

/-- Checks 3 and 4 of R48, the replacement, and the channels' memberships brought into agreement (03 R55). -/
def replaceGroup (g : GroupId) (new : Group) : Action := fun s =>
  if s.configurable then
    match memberElsewhere g s.drive new.members with
    | some (c, h) => (s, { code := .conflict, data := [finByte c, finByte h] })
    | none =>
      let old := s.pitch.groups[g].members
      (setMembership (some g) new.members (setMembership none old
        { s with pitch.groups := upd s.pitch.groups g fun _ => new }), .done [])
  else refuse .state s

def setGroupAct (l : Link) (group curve policy limit count : Byte) (channels : List Byte) : Action :=
  unlessTaken l <|
    match toFin 48 group, toFin 8 curve, BusyPolicy.ofCode policy, decodeAll (toFin 96) channels with
    | some g, some c, some p, some ms =>
      if limit.toNat ≤ 20 ∧ count.toNat ≤ 4 ∧ ms.Nodup then
        replaceGroup g { members := ms, curve := c, policy := p, delayLimitMs := limit.toNat }
      else refuse .range
    | _, _, _, _ => refuse .range

def setGroupBody (l : Link) : List Byte → Option Action
  | group :: curve :: policy :: limit :: count :: channels =>
    if channels.length = count.toNat then some (setGroupAct l group curve policy limit count channels) else none
  | _ => none

/-- SET GROUP (03 R54, R55). -/
def execSetGroup (f : Frame) (s : State) : Host.Outcome State Fault Refusal :=
  takeRequest 0x32 .addressed f (setGroupBody f.link) s

def readGroupAct (group : Byte) : Action := fun s =>
  match toFin 48 group with
  | some g => (s, .done (groupData s s.pitch.groups[g]))
  | none => refuse .range s

def readGroupBody : List Byte → Option Action
  | [group] => some (readGroupAct group)
  | _ => none

/-- READ GROUP (03 R56). -/
def execReadGroup (f : Frame) (s : State) : Host.Outcome State Fault Refusal :=
  takeRequest 0x33 .addressed f readGroupBody s

/-! ### Curves (03 R59, R60) -/

/-- The ranges of a point (03 R57). -/
def CurvePoint.valid (p : CurvePoint) : Bool :=
  200 ≤ p.width && p.width ≤ 8000 && 2000 ≤ p.flight && p.flight ≤ 40000

def curvePoint (w1 w0 f1 f0 : Byte) : CurvePoint := { width := u16 w1 w0, flight := u16 f1 f0 }

/-- The five points of a SET CURVE body, point 0 first. -/
def curvePoints : List Byte → Option Curve
  | [a1, a0, b1, b0, c1, c0, d1, d0, e1, e0, f1, f0, g1, g0, h1, h0, i1, i0, j1, j0] =>
    some #v[curvePoint a1 a0 b1 b0, curvePoint c1 c0 d1 d0, curvePoint e1 e0 f1 f0, curvePoint g1 g0 h1 h0,
      curvePoint i1 i0 j1 j0]
  | _ => none

def setCurveAct (l : Link) (curve : Byte) (points : Curve) : Action :=
  unlessTaken l fun s =>
    match toFin 8 curve with
    | some i =>
      if points.toList.all CurvePoint.valid then
        if s.configurable then ({ s with pitch.curves := upd s.pitch.curves i fun _ => points }, .done [])
        else refuse .state s
      else refuse .range s
    | none => refuse .range s

def setCurveBody (l : Link) : List Byte → Option Action
  | curve :: points => (curvePoints points).map (setCurveAct l curve)
  | [] => none

/-- SET CURVE (03 R59). -/
def execSetCurve (f : Frame) (s : State) : Host.Outcome State Fault Refusal :=
  takeRequest 0x34 .addressed f (setCurveBody f.link) s

def readCurvePoints (curve : Byte) : Action := fun s =>
  match toFin 8 curve with
  | some i => (s, .done (curveData s.pitch.curves[i]))
  | none => refuse .range s

def readCurveAt (curve velocity : Byte) : Action := fun s =>
  match toFin 8 curve with
  | some i =>
    if 1 ≤ velocity.toNat ∧ velocity.toNat ≤ 127 then
      (s, .done (curveData s.pitch.curves[i] ++ curveAtData s.pitch.curves[i] velocity.toNat))
    else refuse .range s
  | none => refuse .range s

def readCurveBody : List Byte → Option Action
  | [curve] => some (readCurvePoints curve)
  | [curve, velocity] => some (readCurveAt curve velocity)
  | _ => none

/-- READ CURVE (03 R60). -/
def execReadCurve (f : Frame) (s : State) : Host.Outcome State Fault Refusal :=
  takeRequest 0x35 .addressed f readCurveBody s

/-! ### Lanes (03 R61) -/

/-- The reply of either form: the map as it stands after the request. -/
def lanesAnswer (s : State) : State × Reply := (s, .done (lanesData s.pitch))

def setLanesAct (l : Link) (c0 c1 c2 c3 c4 c5 c6 c7 : Byte) : Action :=
  unlessTaken l fun s =>
    match toFin 2 c0, toFin 2 c1, toFin 2 c2, toFin 2 c3, toFin 2 c4, toFin 2 c5, toFin 2 c6, toFin 2 c7 with
    | some 0, some a, some b, some c, some d, some e, some f, some g =>
      lanesAnswer { s with pitch.lanes := #v[0, a, b, c, d, e, f, g] }
    | _, _, _, _, _, _, _, _ => refuse .range s

def setLanesBody (l : Link) : List Byte → Option Action
  | [] => some lanesAnswer
  | [c0, c1, c2, c3, c4, c5, c6, c7] => some (setLanesAct l c0 c1 c2 c3 c4 c5 c6 c7)
  | _ => none

/-- SET LANES (03 R61). -/
def execSetLanes (f : Frame) (s : State) : Host.Outcome State Fault Refusal :=
  takeRequest 0x36 .addressed f (setLanesBody f.link) s

end Sys2Proof.Machine
end

