-- ==== Sys2Proof/Machine/RailRequests.lean ====
section
/-! DEFINITION. The rail arbiter (chapter 5): its requests, and PHASE_START with the switch, the accounting and
the admission. -/

namespace Sys2Proof.Machine

/-! ### LOAD PHASES, COMMIT PHASES, READ PHASES (05 R92, R93, R95) -/

/-- Entries written over phases offset, offset + 1 and onward (05 R92). -/
def writeEntries : Nat → List (Option RailId) → PhaseTable → PhaseTable
  | _, [], t => t
  | i, e :: rest, t => writeEntries (i + 1) rest (t.setIfInBounds i e)

/-- The table LOAD PHASES writes over: a copy of the table in force when none is pending (05 R92). -/
def loadingBase (a : RailArbiter) : Option PhaseTable :=
  match a.pendingTable with
  | .empty => some a.table
  | .loading t => some t
  | .committed _ => none

def writePending (offset : Nat) (entries : List (Option RailId)) : Action := fun s =>
  match loadingBase s.rail with
  | some base =>
    let t := { s with rail.pendingTable := .loading (writeEntries offset entries base) }
    (t, .done [t.rail.pendingTable.code])
  | none => refuse .state s

def loadPhasesAct (l : Link) (offset count : Byte) (entries : List Byte) : Action :=
  unlessTaken l <|
    match decodeAll phaseEntry entries with
    | some es =>
      if offset.toNat ≤ 63 ∧ 1 ≤ count.toNat ∧ count.toNat ≤ 32 ∧ offset.toNat + count.toNat ≤ 64 then
        writePending offset.toNat es
      else refuse .range
    | none => refuse .range

def loadPhasesBody (l : Link) : List Byte → Option Action
  | offset :: count :: entries =>
    if entries.length = count.toNat then some (loadPhasesAct l offset count entries) else none
  | _ => none

/-- LOAD PHASES (05 R92). -/
def execLoadPhases (f : Frame) (s : State) : Host.Outcome State Fault Refusal :=
  takeRequest 0x50 .addressed f (loadPhasesBody f.link) s

/-- The lowest-numbered unfenced grouped channel on a rail (05 R93). -/
def groupedChannelOn (r : RailId) (d : DriveUnit) : Option ChannelId :=
  (allFin 96).find? fun c => d.strikes[c].rail == r && !d.strikes[c].fenced && d.strikes[c].group.isSome

/-- A table names a rail in some phase. -/
def namesRail (t : PhaseTable) (r : RailId) : Bool := t.toList.any fun e => e == some r

/-- The lowest rail used by an unfenced grouped channel and named in no phase, with its lowest such channel
(05 R93). -/
def unserved (t : PhaseTable) (d : DriveUnit) : Option (RailId × ChannelId) :=
  (allFin 4).findSome? fun r => if namesRail t r then none else (groupedChannelOn r d).map fun c => (r, c)

def commitPhasesAct (l : Link) : Action :=
  unlessTaken l fun s =>
    match s.rail.pendingTable with
    | .loading t =>
      match unserved t s.drive with
      | some (r, c) => (s, { code := .conflict, data := [finByte r, finByte c] })
      | none => ({ s with rail.pendingTable := .committed t }, .done [])
    | .empty | .committed _ => refuse .state s

def commitPhasesBody (l : Link) : List Byte → Option Action
  | [] => some (commitPhasesAct l)
  | _ => none

/-- COMMIT PHASES (05 R93). -/
def execCommitPhases (f : Frame) (s : State) : Host.Outcome State Fault Refusal :=
  takeRequest 0x51 .addressed f (commitPhasesBody f.link) s

/-- The entries of a table from an offset. -/
def entriesFrom (offset count : Nat) (t : PhaseTable) : List (Option RailId) := (t.toList.drop offset).take count

/-- The entries of the chosen table; an EMPTY pending table has none (05 R95). -/
def chosenEntries (pending : Bool) (offset count : Nat) (a : RailArbiter) : List (Option RailId) :=
  match pending, a.pendingTable with
  | false, _ => entriesFrom offset count a.table
  | true, .empty => []
  | true, .loading t => entriesFrom offset count t
  | true, .committed t => entriesFrom offset count t

def readPhasesAct (choice offset count : Byte) : Action := fun s =>
  match yesNo choice with
  | some pending =>
    if offset.toNat ≤ 63 ∧ 1 ≤ count.toNat ∧ count.toNat ≤ 32 ∧ offset.toNat + count.toNat ≤ 64 then
      (s, .done (phasesData s.rail (chosenEntries pending offset.toNat count.toNat s.rail)))
    else refuse .range s
  | none => refuse .range s

def readPhasesBody : List Byte → Option Action
  | [choice, offset, count] => some (readPhasesAct choice offset count)
  | _ => none

/-- READ PHASES (05 R95). -/
def execReadPhases (f : Frame) (s : State) : Host.Outcome State Fault Refusal :=
  takeRequest 0x52 .addressed f readPhasesBody s

/-! ### SET RAIL, READ RAIL, CLEAR RAIL LATCH (05 R101 to R103) -/

/-- The latch is set when the accumulator exceeds the limit, and never cleared here (05 R98, R101). -/
def Rail.latched (x : Rail) : Rail := { x with latch := x.latch || x.overloaded }

/-- RAIL_OVERLOAD, when the latch changes from clear to set (05 R98, R101). -/
def raiseOverload (r : RailId) (old new : Rail) (s : State) : State :=
  if new.latch && !old.latch then
    raise { kind := .railOverload, origin := .rail r, detail := .rail new.accumulator new.limit } s
  else s

/-- A rail record is replaced by its update, which may set the latch. -/
def changeRail (r : RailId) (f : Rail → Rail) (s : State) : State :=
  raiseOverload r s.rail.rails[r] (f s.rail.rails[r]) (updRail r f s)

/-- SET RAIL on the record: limit, drain, near flag, latch (05 R101). -/
def Rail.configured (limit drain : Nat) (x : Rail) : Rail :=
  ({ x with limit := limit, drain := drain }).withNear.latched

def setRailAct (l : Link) (rail l1 l0 d1 d0 : Byte) : Action :=
  unlessTaken l fun s =>
    match toFin 4 rail with
    | some r =>
      if u16 d1 d0 ≤ 4095 then
        let t := changeRail r (.configured (u16 l1 l0) (u16 d1 d0)) s
        (t, .done (railData t r))
      else refuse .range s
    | none => refuse .range s

def setRailBody (l : Link) : List Byte → Option Action
  | [rail, l1, l0, d1, d0] => some (setRailAct l rail l1 l0 d1 d0)
  | _ => none

/-- SET RAIL (05 R101). -/
def execSetRail (f : Frame) (s : State) : Host.Outcome State Fault Refusal :=
  takeRequest 0x53 .addressed f (setRailBody f.link) s

def readRailAct (rail : Byte) : Action := fun s =>
  match toFin 4 rail with
  | some r => (s, .done (railData s r))
  | none => refuse .range s

def readRailBody : List Byte → Option Action
  | [rail] => some (readRailAct rail)
  | _ => none

/-- READ RAIL (05 R103). -/
def execReadRail (f : Frame) (s : State) : Host.Outcome State Fault Refusal :=
  takeRequest 0x54 .addressed f readRailBody s

def clearRailLatchAct (l : Link) (rail : Byte) : Action :=
  unlessTaken l fun s =>
    match toFin 4 rail with
    | some r =>
      if s.rail.rails[r].overloaded then refuse .state s
      else (updRail r (fun x => { x with latch := false }) s, .done [])
    | none => refuse .range s

def clearRailLatchBody (l : Link) : List Byte → Option Action
  | [rail] => some (clearRailLatchAct l rail)
  | _ => none

/-- CLEAR RAIL LATCH (05 R102). -/
def execClearRailLatch (f : Frame) (s : State) : Host.Outcome State Fault Refusal :=
  takeRequest 0x55 .addressed f (clearRailLatchBody f.link) s

/-! ### PHASE_START (05 R89) -/

/-- The phase index at a part time (05 R89). -/
def phaseIndex (partTime : Nat) : Fin 64 := Fin.ofNat 64 (partTime / 250)

/-- Step 1: at phase 0 a COMMITTED table goes into force (05 R94). -/
def switchTable (s : State) : State :=
  match phaseIndex s.partTime, s.rail.pendingTable with
  | 0, .committed t => setFlag .tableSwitched { s with rail := { s.rail with table := t, pendingTable := .empty } }
  | _, _ => s

/-- The standing load of a rail (05 R99). -/
def standingLoad (d : DriveUnit) (r : RailId) : Nat :=
  (d.holds.toList.map fun h => if h.rail = r ∧ h.on = true then h.load else 0).sum +
  (d.rotors.toList.map fun m => if m.rail = r ∧ 0 < m.current then m.load else 0).sum

/-- The accounting of a rail record (05 R98). -/
def Rail.accounted (load : Nat) (x : Rail) : Rail :=
  ({ x with accumulator := saturate 65535 (x.accumulator - x.drain + load), standingLoad := load }).withNear.latched

/-- Step 2: the four rails in turn (05 R98). That rail 0 is first and rail 3 last is the model's choice (DESIGN CHOICE,
log 30). -/
def accountRails (s : State) : State :=
  (allFin 4).foldl (fun t r => changeRail r (.accounted (standingLoad t.drive r)) t) s

/-- A RAIL_WAIT firing of a lane for a rail. -/
def Firing.isCandidate (r : RailId) (lane : Lane) (f : Firing) : Bool :=
  f.waitsFor r && match f.kind.shot? with
    | some sh => sh.lane == lane
    | none => false

/-- The candidates of an admission, lane 0 first, each lane in list order (05 R105). -/
def admissionOrder (r : RailId) (l : List Firing) : List Firing :=
  l.filter (Firing.isCandidate r 0) ++ l.filter (Firing.isCandidate r 1)

/-- A candidate's channel is fenced, DRIVING, or RECOVER with a full slot (05 R106). -/
def StrikeChannel.passedOver (c : StrikeChannel) : Bool :=
  c.fenced || match c.state with
    | .driving _ => true
    | .recover => c.nextPulse.isSome
    | .idle => false

/-- The charge of a grant (05 R104, R106). -/
def Rail.charged (charge : Nat) (x : Rail) : Rail :=
  ({ x with accumulator := x.accumulator + charge }).withNear

/-- The pulse of a granted firing (04 R76). -/
def pulseOf (f : Firing) (sh : Shot) : Pulse :=
  { width := sh.width, source := f.kind.source, fireTime := f.fireTime }

/-- A grant: the charge, the firing out of the list, the pulse to its channel (05 R106, R107, 04 R76). -/
def grant (noCurrent : BitVec 96) (f : Firing) (sh : Shot) (s : State) : State :=
  grantPulse sh.channel (pulseOf f sh) (noCurrent.getLsbD sh.channel.val)
    (removeFiring f (updRail sh.rail (.charged sh.charge) s))

/-- The walk of an admission, with the allowance left (05 R106). -/
def walkGrants (noCurrent : BitVec 96) : Nat → List Firing → State → State
  | _, [], s => s
  | allowance, f :: rest, s =>
    match f.kind.shot? with
    | none => walkGrants noCurrent allowance rest s
    | some sh =>
      if s.drive.strikes[sh.channel].passedOver then walkGrants noCurrent allowance rest s
      else
        match allowance with
        | 0 => s
        | n + 1 =>
          if s.rail.rails[sh.rail].accumulator + sh.charge ≤ s.rail.rails[sh.rail].effectiveLimit then
            walkGrants noCurrent n rest (grant noCurrent f sh s)
          else s

/-- Step 3: the rail the table names, if any, admits waiting firings (05 R89, R106). -/
def admission (noCurrent : BitVec 96) (s : State) : State :=
  match s.rail.table[phaseIndex s.partTime] with
  | some r =>
    walkGrants noCurrent (if s.rail.rails[r].near then 1 else 4) (admissionOrder r s.sched.fireList) s
  | none => s

/-- A phase start is due at a multiple of 250 µs, once (05 R89). -/
def phaseDue (s : State) : Bool := s.partTime % 250 == 0 && s.rail.lastPhaseStart != some s.partTime

/-- One phase start (05 R89). -/
def startPhase (noCurrent : BitVec 96) (s : State) : State :=
  admission noCurrent (accountRails (switchTable { s with rail.lastPhaseStart := some s.partTime }))

/-- PHASE_START (05 R89). -/
def execPhaseStart (noCurrent : BitVec 96) (s : State) : Host.Outcome State Fault Refusal :=
  if phaseDue s then event (startPhase noCurrent) s else .next s

end Sys2Proof.Machine
end

