-- ==== Sys2Proof/Machine/SchedRequests.lean ====
section
/-! DEFINITION. The scheduler's requests READ FIRE LIST and SET LATE LIMITS, and its events COMMIT,
FIRE_TIME_ARRIVAL and LATE_EXPIRY (chapter 4, 01 R19). -/

namespace Sys2Proof.Machine

/-! ### READ FIRE LIST (04 R87, R88) -/

/-- The statistics form; with the clear option the statistics are set to 0 after they are reported (04 R87). -/
def readStatistics (clear : Bool) : Action := fun s =>
  (if clear then { s with sched.stats := Statistics.zero } else s, .done (statisticsData s.sched))

def readFireListAct (form value : Byte) : Action := fun s =>
  match yesNo form with
  | some false =>
    match yesNo value with
    | some clear => readStatistics clear s
    | none => refuse .range s
  | some true =>
    if value.toNat ≤ 63 then (s, .done (fireListData s.sched value.toNat)) else refuse .range s
  | none => refuse .range s

def readFireListBody : List Byte → Option Action
  | [form, value] => some (readFireListAct form value)
  | _ => none

/-- READ FIRE LIST (04 R87, R88). -/
def execReadFireList (f : Frame) (s : State) : Host.Outcome State Fault Refusal :=
  takeRequest 0x40 .addressed f readFireListBody s

/-! ### SET LATE LIMITS (04 R85) -/

def setLateLimitsAct (l : Link) (lane0 lane1 : Byte) : Action :=
  unlessTaken l fun s =>
    if lane0.toNat ≤ 50 ∧ lane1.toNat ≤ 50 then
      let t := { s with sched.lateLimitsMs := #v[lane0.toNat, lane1.toNat] }
      (t, .done (limitsData t.sched))
    else refuse .range s

def setLateLimitsBody (l : Link) : List Byte → Option Action
  | [lane0, lane1] => some (setLateLimitsAct l lane0 lane1)
  | _ => none

/-- SET LATE LIMITS (04 R85). -/
def execSetLateLimits (f : Frame) (s : State) : Host.Outcome State Fault Refusal :=
  takeRequest 0x41 .addressed f (setLateLimitsBody f.link) s

/-! ### Events -/

/-- COMMIT (01 R19): the head entry whose commit's conditions all hold. -/
def execCommit (s : State) : Host.Outcome State Fault Refusal :=
  match commitReady s with
  | some k => event (commitHead k) s
  | none => .next s

/-- The firing that arrives first: in list order (04 R74). -/
def firstArrival (s : State) : Option Firing := s.sched.fireList.find? (·.arrives s.now)

/-- FIRE_TIME_ARRIVAL (04 R74). -/
def execFireTimeArrival (s : State) : Host.Outcome State Fault Refusal :=
  match firstArrival s with
  | some f => event (arrive f) s
  | none => .next s

/-- A RAIL_WAIT firing whose late expiry has come (04 R75). -/
def Firing.expires (now : Time) (f : Firing) : Bool :=
  match f.state with
  | .railWait e => e ≤ now
  | .waiting => false

/-- The firing with a number whose late expiry has come. -/
def expiring (number : BitVec 32) (s : State) : Option Firing :=
  s.sched.fireList.find? fun f => f.number == number && f.expires s.now

/-- STRIKE_LATE of a dropped firing (04 R75). -/
def expiryError (now : Time) (f : Firing) : FiringKind → Option Occurrence
  | .strike e pitch g sh => some (noteError .strikeLate e pitch (some g) (some sh.channel) (some (now - f.fireTime)))
  | .test sh =>
    some { kind := .strikeLate, origin := .channel sh.channel,
           detail := .strike none none (some sh.channel) (some (latenessDetail (now - f.fireTime))) }
  | .hold _ _ _ | .rotor _ _ _ | .mark _ _ | .ending _ => none

/-- The drop of an expired firing (04 R75). -/
def expire (f : Firing) (s : State) : State :=
  let t := removeFiring f s
  let counted := { t with sched.stats.expired := saturate 65535 (t.sched.stats.expired + 1) }
  match expiryError s.now f f.kind with
  | some o => raise o counted
  | none => t

/-- LATE_EXPIRY (04 R75). -/
def execLateExpiry (number : BitVec 32) (s : State) : Host.Outcome State Fault Refusal :=
  match expiring number s with
  | some f => event (expire f) s
  | none => .next s

end Sys2Proof.Machine
end

