-- ==== Sys2Proof/Machine/SectionRequests.lean ====
section
/-! DEFINITION. Section control (chapter 7): its requests, the pendant silence expiry, and the rotor ramp, which
may complete a hush. -/

namespace Sys2Proof.Machine

def readStateBody : List Byte → Option Action
  | [] => some fun s => (s, .done (stateData s))
  | _ => none

/-- READ STATE (07 R145). -/
def execReadState (f : Frame) (s : State) : Host.Outcome State Fault Refusal :=
  takeRequest 0x70 .addressed f readStateBody s

def hushBody : List Byte → Option Action
  | [] => some fun s => (causeHush s, .done [])
  | _ => none

/-- HUSH (07 R135). -/
def execHush (f : Frame) (s : State) : Host.Outcome State Fault Refusal :=
  takeRequest 0x71 .everyForm f hushBody s

/-! ### SECTION RESET (07 R144) -/

def resetSection (s : State) : State :=
  beginHush s.ownTarget false { s with fault.flags := s.fault.flags &&& ~~~sectionResetFlags }

def sectionResetAct (l : Link) : Action :=
  unlessTaken l fun s =>
    if s.sect.state = .hushing ∨ s.sect.state = .halted then refuse .state s else (resetSection s, .done [])

def sectionResetBody (l : Link) : List Byte → Option Action
  | [] => some (sectionResetAct l)
  | _ => none

/-- SECTION RESET (07 R144). -/
def execSectionReset (f : Frame) (s : State) : Host.Outcome State Fault Refusal :=
  takeRequest 0x72 .addressed f (sectionResetBody f.link) s

/-! ### TAKE and RELEASE (07 R138, R141) -/

/-- The reply of a request that answers the section state that results; a forced TAKE in PLAYING or PAUSED replies
HUSHING even when its hush completes in the same event (07 R138; log 21). -/
def stateReply (st : SectionState) : Reply := .done [st.code]

def takeAct (forced : Byte) : Action := fun s =>
  match yesNo forced with
  | none => refuse .range s
  | some f =>
    match s.sect.state, f with
    | .quiet, _ => (enterService s, stateReply .service)
    | .halted, _ => (enterService s, stateReply .service)
    | .service, _ => (s, stateReply .service)
    | .playing, true => (forcedTake s, stateReply .hushing)
    | .paused, true => (forcedTake s, stateReply .hushing)
    | .hushing, true => (forcedTake s, stateReply .hushing)
    | .playing, false => refuse .state s
    | .paused, false => refuse .state s
    | .hushing, false => refuse .state s

def takeBody : List Byte → Option Action
  | [forced] => some (takeAct forced)
  | _ => none

/-- TAKE (07 R138). -/
def execTake (f : Frame) (s : State) : Host.Outcome State Fault Refusal :=
  takeRequest 0x73 .pendantOnly f takeBody s

/-- RELEASE enters HALTED while halt-pending stands and a fatal status with it (07 R141 step 3). -/
def releaseHalts (s : State) : Bool := s.sect.haltPending && (haltingKind s.fault).isSome

/-- Step 2: timer stopped, record NONE, TAKEOVER set. -/
def giveBack (s : State) : State :=
  setFlag .takeover { s with sect := { s.sect with silenceTimer := none, takeover := .none } }

def releaseSection (s : State) : State × Reply :=
  let t := giveBack (removeTests s)
  if releaseHalts s then (setSection .halted t, stateReply .halted)
  else (judgeWaiting { t with sect := { t.sect with state := .quiet, haltPending := false } }, stateReply .quiet)

def releaseAct : Action := fun s => if s.sect.state = .service then releaseSection s else refuse .state s

def releaseBody : List Byte → Option Action
  | [] => some releaseAct
  | _ => none

/-- RELEASE (07 R141). -/
def execRelease (f : Frame) (s : State) : Host.Outcome State Fault Refusal :=
  takeRequest 0x74 .pendantOnly f releaseBody s

/-! ### CLEAR HALT and SET BREAK HUSH (07 R143, R137) -/

def clearHaltAct : Action := fun s =>
  if s.sect.state ≠ .halted then refuse .state s
  else
    match haltingKind s.fault with
    | some k => (s, { code := .conflict, data := [finByte k] })
    | none => ({ s with sect := { s.sect with state := .quiet, haltPending := false } }, .done [])

def clearHaltBody : List Byte → Option Action
  | [] => some clearHaltAct
  | _ => none

/-- CLEAR HALT (07 R143): in SERVICE the show link is refused STATE like any other sender (07 R142). -/
def execClearHalt (f : Frame) (s : State) : Host.Outcome State Fault Refusal :=
  takeRequest 0x75 .addressed f clearHaltBody s

def setBreakHushAct (l : Link) (enable : Byte) : Action :=
  unlessTaken l fun s =>
    match yesNo enable with
    | some e => ({ s with sect.breakHush := e }, .done [boolByte e])
    | none => refuse .range s

def setBreakHushBody (l : Link) : List Byte → Option Action
  | [enable] => some (setBreakHushAct l enable)
  | _ => none

/-- SET BREAK HUSH (07 R137). -/
def execSetBreakHush (f : Frame) (s : State) : Host.Outcome State Fault Refusal :=
  takeRequest 0x76 .addressed f (setBreakHushBody f.link) s

/-! ### Timers -/

/-- A timer whose expiry has come. -/
def timerDue (now : Time) (timer : Option Time) : Option Time :=
  match timer with
  | some t => if t ≤ now then some t else none
  | none => none

/-- A ramp timer expiry, with the drive unit's report when a speed reaches 0 during HUSHING (06 R125, 07 R134). -/
def rampRotor (m : RotorId) (t : Time) (s : State) : State :=
  let after := updRotor m (.ramp t) s
  if after.drive.rotors[m].current = 0 then completeIfDone after else after

/-- RAMP_TIMER_EXPIRY (06 R125). -/
def execRampTimerExpiry (m : RotorId) (s : State) : Host.Outcome State Fault Refusal :=
  match timerDue s.now s.drive.rotors[m].timer with
  | some t => event (rampRotor m t) s
  | none => .next s

/-- Step 2 of a pendant silence expiry (07 R140): a hush to QUIET, or a running one turned to QUIET. With every rotor
at rest the hush completes in the expiry event (07 R132 step 4, R134, §7.8), so that a TAKE at the same part time is
judged in QUIET or HALTED, also where R140 says that it is judged in HUSHING (DEDUCED, log 31). -/
def silenceHush (s : State) : State :=
  if s.sect.state = .hushing then { s with sect.hushTarget := .quiet } else beginHush .quiet false s

/-- A pendant silence expiry: PENDANT_LOST, the hush, the takeover record, the timer (07 R140 steps 1 to 4). The
timer stops before a hush that completes at once looks at it, and the record is given up in the same event. -/
def pendantLost (s : State) : State :=
  let raised := raise { kind := .pendantLost, origin := .link .servicePort, detail := .nothing } s
  let t := loseTakeover (silenceHush raised)
  { t with sect.silenceTimer := none }

/-- PENDANT_SILENCE_EXPIRY (07 R140). -/
def execPendantSilenceExpiry (s : State) : Host.Outcome State Fault Refusal :=
  match timerDue s.now s.sect.silenceTimer with
  | some _ => event pendantLost s
  | none => .next s

end Sys2Proof.Machine
end

