-- ==== Sys2Proof/Machine/Idle.lean ====
section
/-! DEFINITION. What the part does by itself when no command waits (log 1, 2): the events that are due at part time
now, the requests its links present, and one microsecond going by. -/

namespace Sys2Proof.Machine

/-- The command of a frame by its kind byte (10 Table 10.2.1). `noCurrent` is SET CHANNEL's sense result. -/
def commandOf (kind : Byte) (f : Frame) (noCurrent : Bool) : Instr :=
  match kind.toNat with
  | 0x10 => .openCue f
  | 0x11 => .events f
  | 0x12 => .readCue f
  | 0x13 => .setHorizon f
  | 0x14 => .sync f
  | 0x15 => .nudge f
  | 0x20 => .start f
  | 0x21 => .pause f
  | 0x22 => .continueCue f
  | 0x23 => .dropCue f
  | 0x24 => .setMask f
  | 0x25 => .setTranspose f
  | 0x26 => .setDynamics f
  | 0x27 => .readStack f
  | 0x30 => .setWindow f
  | 0x31 => .readWindow f
  | 0x32 => .setGroup f
  | 0x33 => .readGroup f
  | 0x34 => .setCurve f
  | 0x35 => .readCurve f
  | 0x36 => .setLanes f
  | 0x40 => .readFireList f
  | 0x41 => .setLateLimits f
  | 0x50 => .loadPhases f
  | 0x51 => .commitPhases f
  | 0x52 => .readPhases f
  | 0x53 => .setRail f
  | 0x54 => .readRail f
  | 0x55 => .clearRailLatch f
  | 0x60 => .setChannel f noCurrent
  | 0x61 => .readChannel f
  | 0x62 => .fence f
  | 0x63 => .unfence f
  | 0x64 => .setHoldChannel f
  | 0x65 => .setRotorChannel f
  | 0x66 => .testFire f
  | 0x67 => .testHold f
  | 0x68 => .testRotor f
  | 0x70 => .readState f
  | 0x71 => .hush f
  | 0x72 => .sectionReset f
  | 0x73 => .take f
  | 0x74 => .release f
  | 0x75 => .clearHalt f
  | 0x76 => .setBreakHush f
  | 0x80 => .readFaults f
  | 0x81 => .clearFaults f
  | 0x82 => .setFaultMask f
  | 0x83 => .setSeverity f
  | 0x84 => .readCapture f
  | 0x85 => .clearCapture f
  | 0x86 => .readCounts f
  | 0x87 => .readAttention f
  | 0x88 => .clearAttention f
  | 0x89 => .maskAttention f
  | 0x8A => .unmaskAttention f
  | 0x8B => .call f
  | 0x90 => .readExchange f
  | 0x91 => .writeExchange f
  | _ => .unknownRequest kind f

/-- The command of the frame that a link presents: its oldest (09 R173). -/
def presentedCommand (s : State) (l : Link) (noCurrent : Bool) : Option Instr :=
  match (s.unit l).buffers with
  | { address := a, body := kind :: tag :: fields, completed := _ } :: _ =>
    some (commandOf kind { link := l, address := a, tag := tag, fields := fields } noCurrent)
  | _ => none

def bothLinks : List Link := [.showLink, .servicePort]

/-- A command when its condition holds. -/
def whenDue (condition : Bool) (c : Instr) : List Instr := if condition then [c] else []

/-- The sense results of an event that the part takes by itself (log 9). -/
def ownSense (s : State) : BitVec 96 := Config.noCoilCurrent s.freeCount

/-- The late expiries that have come (04 R75). -/
def dueExpiries (s : State) : List Instr :=
  (s.sched.fireList.filter (·.expires s.now)).map fun f => .lateExpiry f.number

/-- A channel's due event (06 R113, R114). -/
def dueOfChannel (s : State) (c : ChannelId) : List Instr :=
  whenDue (pulseEndDue s c).isSome (.pulseEnd c) ++
    whenDue (recoveryDue s c) (.recoveryEnd c ((ownSense s).getLsbD c.val))

/-- A link's due events (09 R171, R176). -/
def dueOfLink (s : State) (l : Link) : List Instr :=
  whenDue (breakDue s l) (.breakCondition l) ++ whenDue (transmissionDone s l) (.replyTransmissionEnd l)

/-- Every event of the part that is due now, and is taken before part time goes on. -/
def dueEvents (s : State) : List Instr :=
  whenDue (phaseDue s) (.phaseStart (ownSense s)) ++
  whenDue (commitReady s).isSome .commit ++
  whenDue (firstArrival s).isSome .fireTimeArrival ++
  dueExpiries s ++
  (allFin 96).flatMap (dueOfChannel s) ++
  (allFin 2).flatMap (fun m => whenDue (timerDue s.now s.drive.rotors[m].timer).isSome (.rampTimerExpiry m)) ++
  whenDue (timerDue s.now s.sect.silenceTimer).isSome .pendantSilenceExpiry ++
  whenDue (longBreakDue s) .longBreak ++
  bothLinks.flatMap (dueOfLink s)

/-- The requests that the two links present (09 R173). -/
def presentedCommands (s : State) : List Instr :=
  bothLinks.filterMap fun l => presentedCommand s l ((ownSense s).getLsbD 0)

/-- A presented request is taken no later than 200 µs after its presentation (09 R173). -/
def requestOverdue (s : State) : Bool :=
  bothLinks.any fun l => (presentedCommand s l false).isSome && match (s.unit l).presentedAt with
    | some t => t + 200 ≤ s.now
    | none => true

/-- One thing the idle part may do next. -/
inductive Move
  | take (command : Instr)
  | pass
  deriving DecidableEq, Repr

/-- A microsecond may go by when no event is due and no request is at its deadline. -/
def mayPass (s : State) : Bool := (dueEvents s).isEmpty && !requestOverdue s

/-- The moves open at part time now. -/
def openMoves (s : State) : List Move :=
  (dueEvents s ++ presentedCommands s).map .take ++ if mayPass s then [.pass] else []

/-- Part time advances by one each microsecond (01 R13; log 6). -/
def passTime (s : State) : State := { s with partTime := s.partTime + 1 }

/-- The move taken: the only one, or one that is free among several (log 2). -/
def chosenMove (s : State) : Move :=
  match openMoves s with
  | [] => .pass
  | [m] => m
  | m :: rest => (m :: rest).getD (Config.moveChoice s.freeCount % (m :: rest).length) m

end Sys2Proof.Machine
end

