-- ==== Sys2Proof/Machine/Dispatch.lean ====
section
/-! DEFINITION. The meaning of every command: one direct call of its own definition. -/

namespace Sys2Proof.Machine

def exec (i : Instr) (s : State) : Host.Outcome State Fault Refusal :=
  match i with
  | .powerOn address rate showAtSpace serviceAtSpace => Sys2Proof.Machine.execPowerOn address rate showAtSpace serviceAtSpace s
  | .addressCharacter link value => Sys2Proof.Machine.execAddressCharacter link value s
  | .dataCharacter link value => Sys2Proof.Machine.execDataCharacter link value s
  | .framingError link => Sys2Proof.Machine.execFramingError link s
  | .breakCondition link => Sys2Proof.Machine.execBreakCondition link s
  | .longBreak => Sys2Proof.Machine.execLongBreak s
  | .lineReturnToMark link => Sys2Proof.Machine.execLineReturnToMark link s
  | .replyTransmissionEnd link => Sys2Proof.Machine.execReplyTransmissionEnd link s
  | .unknownRequest kind frame => Sys2Proof.Machine.execUnknownRequest kind frame s
  | .openCue frame => Sys2Proof.Machine.execOpenCue frame s
  | .events frame => Sys2Proof.Machine.execEvents frame s
  | .readCue frame => Sys2Proof.Machine.execReadCue frame s
  | .setHorizon frame => Sys2Proof.Machine.execSetHorizon frame s
  | .sync frame => Sys2Proof.Machine.execSync frame s
  | .nudge frame => Sys2Proof.Machine.execNudge frame s
  | .start frame => Sys2Proof.Machine.execStart frame s
  | .pause frame => Sys2Proof.Machine.execPause frame s
  | .continueCue frame => Sys2Proof.Machine.execContinueCue frame s
  | .dropCue frame => Sys2Proof.Machine.execDropCue frame s
  | .setMask frame => Sys2Proof.Machine.execSetMask frame s
  | .setTranspose frame => Sys2Proof.Machine.execSetTranspose frame s
  | .setDynamics frame => Sys2Proof.Machine.execSetDynamics frame s
  | .readStack frame => Sys2Proof.Machine.execReadStack frame s
  | .setWindow frame => Sys2Proof.Machine.execSetWindow frame s
  | .readWindow frame => Sys2Proof.Machine.execReadWindow frame s
  | .setGroup frame => Sys2Proof.Machine.execSetGroup frame s
  | .readGroup frame => Sys2Proof.Machine.execReadGroup frame s
  | .setCurve frame => Sys2Proof.Machine.execSetCurve frame s
  | .readCurve frame => Sys2Proof.Machine.execReadCurve frame s
  | .setLanes frame => Sys2Proof.Machine.execSetLanes frame s
  | .readFireList frame => Sys2Proof.Machine.execReadFireList frame s
  | .setLateLimits frame => Sys2Proof.Machine.execSetLateLimits frame s
  | .loadPhases frame => Sys2Proof.Machine.execLoadPhases frame s
  | .commitPhases frame => Sys2Proof.Machine.execCommitPhases frame s
  | .readPhases frame => Sys2Proof.Machine.execReadPhases frame s
  | .setRail frame => Sys2Proof.Machine.execSetRail frame s
  | .readRail frame => Sys2Proof.Machine.execReadRail frame s
  | .clearRailLatch frame => Sys2Proof.Machine.execClearRailLatch frame s
  | .setChannel frame noCurrent => Sys2Proof.Machine.execSetChannel frame noCurrent s
  | .readChannel frame => Sys2Proof.Machine.execReadChannel frame s
  | .fence frame => Sys2Proof.Machine.execFence frame s
  | .unfence frame => Sys2Proof.Machine.execUnfence frame s
  | .setHoldChannel frame => Sys2Proof.Machine.execSetHoldChannel frame s
  | .setRotorChannel frame => Sys2Proof.Machine.execSetRotorChannel frame s
  | .testFire frame => Sys2Proof.Machine.execTestFire frame s
  | .testHold frame => Sys2Proof.Machine.execTestHold frame s
  | .testRotor frame => Sys2Proof.Machine.execTestRotor frame s
  | .readState frame => Sys2Proof.Machine.execReadState frame s
  | .hush frame => Sys2Proof.Machine.execHush frame s
  | .sectionReset frame => Sys2Proof.Machine.execSectionReset frame s
  | .take frame => Sys2Proof.Machine.execTake frame s
  | .release frame => Sys2Proof.Machine.execRelease frame s
  | .clearHalt frame => Sys2Proof.Machine.execClearHalt frame s
  | .setBreakHush frame => Sys2Proof.Machine.execSetBreakHush frame s
  | .readFaults frame => Sys2Proof.Machine.execReadFaults frame s
  | .clearFaults frame => Sys2Proof.Machine.execClearFaults frame s
  | .setFaultMask frame => Sys2Proof.Machine.execSetFaultMask frame s
  | .setSeverity frame => Sys2Proof.Machine.execSetSeverity frame s
  | .readCapture frame => Sys2Proof.Machine.execReadCapture frame s
  | .clearCapture frame => Sys2Proof.Machine.execClearCapture frame s
  | .readCounts frame => Sys2Proof.Machine.execReadCounts frame s
  | .readAttention frame => Sys2Proof.Machine.execReadAttention frame s
  | .clearAttention frame => Sys2Proof.Machine.execClearAttention frame s
  | .maskAttention frame => Sys2Proof.Machine.execMaskAttention frame s
  | .unmaskAttention frame => Sys2Proof.Machine.execUnmaskAttention frame s
  | .call frame => Sys2Proof.Machine.execCall frame s
  | .readExchange frame => Sys2Proof.Machine.execReadExchange frame s
  | .writeExchange frame => Sys2Proof.Machine.execWriteExchange frame s
  | .commit => Sys2Proof.Machine.execCommit s
  | .fireTimeArrival => Sys2Proof.Machine.execFireTimeArrival s
  | .lateExpiry number => Sys2Proof.Machine.execLateExpiry number s
  | .phaseStart noCurrent => Sys2Proof.Machine.execPhaseStart noCurrent s
  | .pulseEnd channel => Sys2Proof.Machine.execPulseEnd channel s
  | .recoveryEnd channel noCurrent => Sys2Proof.Machine.execRecoveryEnd channel noCurrent s
  | .shortReport channel => Sys2Proof.Machine.execShortReport channel s
  | .rampTimerExpiry rotor => Sys2Proof.Machine.execRampTimerExpiry rotor s
  | .pendantSilenceExpiry => Sys2Proof.Machine.execPendantSilenceExpiry s
  | .markToSpace link => Sys2Proof.Machine.execMarkToSpace link s

end Sys2Proof.Machine
end

