-- ==== Sys2Proof/Machine/Step.lean ====
section
/-! DEFINITION. One step: the command at the front of the queue, or, with no command waiting, one move of the part
itself. -/

namespace Sys2Proof.Machine

/-- The free-value counter moves on with every event the part takes by itself, and with every free choice. -/
def countFree (s : State) : State := { s with freeCount := s.freeCount + 1 }

/-- The part with no command waiting (log 1). -/
def idle (s : State) : Host.Outcome State Fault Refusal :=
  match chosenMove s with
  | .take c => exec c (countFree s)
  | .pass => .next (passTime (if (openMoves s).length ≤ 1 then s else countFree s))

/-- The command at the front of the queue, on the state with the queue's rest. -/
def step (s : State) : Host.Outcome State Fault Refusal :=
  match s.pending with
  | c :: rest => exec c { s with pending := rest }
  | [] => idle s

/-- The command a table word spells, put at the front of the queue. No row of the table gives bits. -/
def State.withFetchWord (s : State) (nbits w : Nat) : State :=
  match decodeTableWord nbits w with
  | some c => { s with pending := c :: s.pending }
  | none => s

end Sys2Proof.Machine
end

