-- ==== Sys2Proof/Safety.lean ====
section
/-! DEFINITION. The laws that the manual states of every moment of the part, as predicates of a state. They are
what the invariants in Certificates/Slice0/Obligations.lean are about; nothing here is assumed by a meaning. -/

namespace Sys2Proof.Machine.Safety

/-- Between events no fatal cause is left undelivered (08 R149). -/
def FatalDelivered (s : State) : Prop := s.fault.fatalDue = false

/-- DRIVE_SHORT is of fixed FATAL severity (06 R115, 08 R157). -/
def ShortIsFatal (s : State) : Prop := s.fault.kinds[ErrorKind.driveShort.number].severity = .fatal

/-- A rail's accumulator exceeds its limit only while its latch is set (05 R98). -/
def OverloadLatched (s : State) : Prop :=
  ∀ r : RailId, s.rail.rails[r].limit < s.rail.rails[r].accumulator → s.rail.rails[r].latch = true

/-- The near flag has the value the accumulator and the limit give (05 R97). -/
def NearFlagTrue (s : State) : Prop :=
  ∀ r : RailId, s.rail.rails[r].near = nearOf s.rail.rails[r].accumulator s.rail.rails[r].limit

/-- A fenced strike channel is never DRIVING and its next-pulse slot is empty (06 R117). -/
def FencedSilent (s : State) : Prop :=
  ∀ c : ChannelId, s.drive.strikes[c].fenced = true →
    s.drive.strikes[c].gate = false ∧ s.drive.strikes[c].nextPulse = none

/-- A list of firings in the order of their fire times (04 R65). -/
def InFireOrder (l : List Firing) : Prop := l.Pairwise fun f g => f.fireTime ≤ g.fireTime

/-- The fire list holds at most 64 firings, ordered by fire time (04 R65). -/
def FireListInOrder (s : State) : Prop :=
  s.sched.fireList.length ≤ fireListSize ∧ InFireOrder s.sched.fireList

/-- A link holds at most two frames (09 R173). -/
def BuffersBounded (s : State) : Prop :=
  s.showUnit.buffers.length ≤ 2 ∧ s.serviceUnit.buffers.length ≤ 2

/-- Class 0 is always in lane 0 (03 R61). -/
def ClassZeroInLaneZero (s : State) : Prop := s.pitch.lanes[(0 : Fin 8)] = 0

/-- Ticks in nondecreasing order (01 R4). -/
def InTickOrder (ticks : List Nat) : Prop := ticks.Pairwise (· ≤ ·)

/-- The ticks of a ring from the release cursor to the write cursor. -/
def ringTicks (r : Ring) : List Nat :=
  r.retained.map (fun c => c.event.tick) ++ r.unplayed.map Event.tick

/-- At most 256 entries, in nondecreasing tick order (01 R4). -/
def RingsInOrder (s : State) : Prop :=
  ∀ k : SlotId, s.cue.slots[k].ring.occupancy ≤ 256 ∧ InTickOrder (ringTicks s.cue.slots[k].ring)

/-- While HUSHING every slot is EMPTY, the fire list is empty, and no channel is DRIVING or holds a pulse in its
slot (07 R132). -/
def HushingSilent (s : State) : Prop :=
  s.sect.state = .hushing →
    (∀ k : SlotId, s.cue.slots[k].state = .empty) ∧ s.sched.fireList = [] ∧
    ∀ c : ChannelId, s.drive.strikes[c].gate = false ∧ s.drive.strikes[c].nextPulse = none

/-- A slot holds the sounding role (02 §2.1). -/
def holdsRole (x : Slot) : Bool := x.state == .sounding || x.state == .paused

/-- At most one slot is SOUNDING or PAUSED (02 R28). -/
def OneRole (s : State) : Prop :=
  ∀ j k : SlotId, holdsRole s.cue.slots[j] = true → holdsRole s.cue.slots[k] = true → j = k

/-- The section is PLAYING exactly when a slot is SOUNDING, and PAUSED exactly when a slot is PAUSED (02 R28). -/
def SectionAgrees (s : State) : Prop :=
  (s.sect.state = .playing ↔ ∃ k : SlotId, s.cue.slots[k].state = .sounding) ∧
  (s.sect.state = .paused ↔ ∃ k : SlotId, s.cue.slots[k].state = .paused)

/-- Every firing but a TEST firing belongs to the slot that is SOUNDING (04 R67). -/
def FiringsOfSounding (s : State) : Prop :=
  ∀ f ∈ s.sched.fireList, ∀ k : SlotId, f.kind.source = .slot k → s.cue.slots[k].state = .sounding

/-- TEST firings exist only while the section is SERVICE (04 R67). The rule's other state, HUSHING with target SERVICE,
has none, since a hush empties the fire list at its start and nothing enters it (07 R132). -/
def TestsInService (s : State) : Prop :=
  ∀ f ∈ s.sched.fireList, f.kind.source = .test → s.sect.state = .service

/-- The sounding role and whose the firings are, as 02 R28 and 04 R67 have it. -/
def RoleLaw (s : State) : Prop := OneRole s ∧ SectionAgrees s ∧ FiringsOfSounding s ∧ TestsInService s

/-- Each pitch lies in at most one enabled window (03 R49). -/
def WindowsApart (s : State) : Prop :=
  ∀ i j : WindowId, i ≠ j → s.pitch.windows[i].overlaps s.pitch.windows[j] = false

/-- The constraints of 03 Table 3.2.1 hold of every window (03 R49). -/
def WindowsValid (s : State) : Prop := ∀ i : WindowId, s.pitch.windows[i].valid = true

/-- A channel's membership names the group that lists it (03 R55). -/
def MembershipAgrees (s : State) : Prop :=
  ∀ (g : GroupId) (c : ChannelId), c ∈ s.pitch.groups[g].members ↔ s.drive.strikes[c].group = some g

/-- Halt-pending is clear in QUIET, PLAYING and PAUSED (07 R130). -/
def HaltPendingPlaced (s : State) : Prop :=
  s.sect.state = .quiet ∨ s.sect.state = .playing ∨ s.sect.state = .paused → s.sect.haltPending = false

/-- The context stack names distinct SUSPENDED slots, and every SUSPENDED slot is named (02 R36). -/
def StackNamesSuspended (s : State) : Prop :=
  (s.arb.stack.map ContextRecord.slot).Nodup ∧
  ∀ k : SlotId, s.cue.slots[k].state = .suspended ↔ k ∈ s.arb.stack.map ContextRecord.slot

/-- The waiting set names distinct WAITING slots, and every WAITING slot is in it (02 R32). -/
def WaitingSetNamesWaiting (s : State) : Prop :=
  (s.arb.waiting.map WaitingEntry.slot).Nodup ∧
  ∀ k : SlotId, s.cue.slots[k].state = .waiting ↔ k ∈ s.arb.waiting.map WaitingEntry.slot

/-! ### How a statement speaks of a command

Every command is one event: its own steps, then the commits that a freed place of the fire list lets through
(04 R84), then a fatal cause that was raised (08 R149). `Obligations.EndOfEvent` and `Obligations.FatalCause` say
what that end does; where nothing waits on space and nothing fatal was raised it does nothing. -/

/-- The command answers a next state: its own steps leave `u`, and the event ends from there. -/
def Completes (c : Instr) (s u : State) : Prop := exec c s = .next (settle s u)

/-- The frame of a request, with its kind byte, is presented in `s`; `t` is `s` with its buffer freed. It is an
addressed frame, so it is answered (09 R173, R174). -/
def Offered (kind : Byte) (f : Frame) (s t : State) : Prop :=
  (∃ completed, presentFrame kind f s = some (completed, t)) ∧ isBroadcast f = false

/-- The same for a broadcast frame, which is not answered. -/
def OfferedToAll (kind : Byte) (f : Frame) (s t : State) : Prop :=
  (∃ completed, presentFrame kind f s = some (completed, t)) ∧ isBroadcast f = true

/-- `u` with the reply of a request produced (09 R175, R176). -/
def answered (kind : Byte) (f : Frame) (code : ReplyCode) (data : List Byte) (u : State) : State :=
  placeReply f.link (replyFrame u kind f.tag { code := code, data := data }) u

/-- The command completes: its rule leaves `u`, and the reply has this code and these data. -/
def Answers (kind : Byte) (c : Instr) (f : Frame) (s : State) (code : ReplyCode) (data : List Byte) (u : State) :
    Prop :=
  Completes c s (answered kind f code data u)

/-- The request comes on the show link while the section is SERVICE (07 R142). -/
def FromShowInService (f : Frame) (s : State) : Prop := f.link = .showLink ∧ s.sect.state = .service

/-- The section accepts configuration requests: QUIET, SERVICE or HALTED (03 R48, 06 R119). -/
def Configurable (s : State) : Prop :=
  s.sect.state = .quiet ∨ s.sect.state = .service ∨ s.sect.state = .halted

/-- The body length suits the kind, by the rows of 10 Table 10.2.1; N is the number of body bytes. -/
def lengthSuits (kind : Byte) (fields : List Byte) : Bool :=
  let n := fields.length + 2
  let count (at_ : Nat) := (fields.getD at_ 0).toNat
  match kind.toNat with
  | 0x10 => n == 12
  | 0x11 => 4 ≤ n && n == 4 + 8 * count 1
  | 0x12 | 0x35 => n == 3 || n == 4
  | 0x14 => n == 8
  | 0x13 | 0x15 | 0x20 | 0x23 | 0x24 | 0x33 | 0x54 | 0x55 | 0x61 | 0x62 | 0x63 | 0x73 | 0x76 | 0x86 | 0x8B =>
    n == 3
  | 0x21 | 0x22 | 0x51 | 0x70 | 0x71 | 0x72 | 0x74 | 0x75 | 0x80 | 0x84 | 0x85 | 0x87 => n == 2
  | 0x25 | 0x26 | 0x31 | 0x40 | 0x41 | 0x67 | 0x68 | 0x81 | 0x83 | 0x88 | 0x89 | 0x8A | 0x90 => n == 4
  | 0x27 => n == 2 || n == 3
  | 0x30 | 0x53 | 0x65 => n == 7
  | 0x32 => 7 ≤ n && n == 7 + count 4
  | 0x34 => n == 23
  | 0x36 => n == 2 || n == 10
  | 0x50 => 4 ≤ n && n == 4 + count 1
  | 0x52 | 0x66 | 0x82 => n == 5
  | 0x60 | 0x64 => n == 6
  | 0x91 => 4 ≤ n && (n == 4 + 2 * count 1 || n == 6 + 2 * count 1)
  | _ => false

/-- The kinds the service port alone may issue (09 Table 9.3.1). -/
def pendantKinds : List Byte := [0x66, 0x67, 0x68, 0x73, 0x74, 0x8B]

/-- The kinds the show link is refused TAKEN in SERVICE (07 Table 7.3.2); SET LANES with a map is one more. -/
def takenKinds : List Byte :=
  [0x10, 0x11, 0x13, 0x15, 0x20, 0x21, 0x22, 0x23, 0x24, 0x25, 0x26, 0x30, 0x32, 0x34, 0x41, 0x50, 0x51, 0x53] ++
  [0x55, 0x60, 0x64, 0x65, 0x63, 0x72, 0x76]

/-- Bits per second of a link (09 Table 9.1.1). -/
def lineRate (s : State) : Link → Nat
  | .servicePort => 115200
  | .showLink =>
    if s.settings.rate = 0 then 125000 else if s.settings.rate = 1 then 250000
    else if s.settings.rate = 2 then 500000 else 1000000

/-! ### How a statement speaks of bytes -/

/-- The number that bytes hold, most significant byte first (10 R180). -/
def numberOf (bytes : List Byte) : Nat := bytes.foldl (fun n b => 256 * n + b.toNat) 0

/-- The bytes are `n` as a number of `width` bytes (10 R180). -/
def Sends (width n : Nat) (bytes : List Byte) : Prop := bytes.length = width ∧ numberOf bytes = n

/-- The bytes are `i` as a signed number, in two's complement over `width` bytes (10 R180). -/
def SendsSigned (width : Nat) (i : Int) (bytes : List Byte) : Prop :=
  bytes.length = width ∧ (numberOf bytes : Int) = if i < 0 then i + 256 ^ width else i

/-- The encodings of 10 R180 and R185: numbers most significant byte first, written (by their low bytes, as the list
form writes a firing number) and read; signed numbers in two's complement; part times in 6 bytes unsigned and show
times in 6 bytes signed, a free value where the time does not fit (log 7); yes/no 1 and 0; flag bytes from bit 0. -/
def EncodesNumbers : Prop :=
  (∀ n : Nat, Sends 1 (n % 256) [byteOf n] ∧ Sends 2 (n % 65536) (be16 n) ∧ Sends 3 (n % 16777216) (be24 n) ∧
    Sends 4 (n % 4294967296) (be32 n)) ∧
  (∀ a b c d e f : Byte, u16 a b = numberOf [a, b] ∧ u24 a b c = numberOf [a, b, c] ∧
    u32 a b c d = numberOf [a, b, c, d] ∧ u48 a b c d e f = numberOf [a, b, c, d, e, f]) ∧
  (∀ (n : Nat) (i : Fin n), Sends 1 (i.val % 256) [finByte i]) ∧
  (∀ i : Int, -128 ≤ i → i < 128 → SendsSigned 1 i [signedByte i]) ∧
  (∀ t : Int,
    (0 ≤ t ∧ t < 2 ^ 48 → Sends 6 t.toNat (partTime48 t)) ∧
    (t < 0 ∨ 2 ^ 48 ≤ t → Sends 6 (Config.unencodableTime t).toNat (partTime48 t)) ∧
    (-2 ^ 47 ≤ t ∧ t < 2 ^ 47 → SendsSigned 6 t (signed48 t)) ∧
    (t < -2 ^ 47 ∨ 2 ^ 47 ≤ t → Sends 6 (Config.unencodableTime t).toNat (signed48 t))) ∧
  boolByte false = 0 ∧ boolByte true = 1 ∧
  (∀ (bits : List Bool) (i : Nat), i < 8 → (flagByte bits).getLsbD i = bits.getD i false)

/-- An event as its 8-byte record: the tick, the kind and its fields, unused bytes 0 (10 R182, Table 10.2.3). -/
def recordOf (e : Event) : List Byte :=
  be32 e.tick ++
    match e.data with
    | .note pitch velocity cls => [1, byteOf pitch, byteOf velocity, finByte cls]
    | .hold h on => [2, finByte h, boolByte on, 0]
    | .rotor m target => [3, finByte m, byteOf target, 0]
    | .tempo p => [4] ++ be24 p
    | .meter m => [5, byteOf m, 0, 0]
    | .mark n => [6, byteOf n, 0, 0]
    | .ending => [7, 0, 0, 0]

/-! ### How a statement speaks of an error -/

/-- The fault monitor `m` is that of `s` after one occurrence (08 R148): status and count; unless the kind is
masked, the capture, the severity's flag, and a fatal cause due at the event's end if the severity is FATAL. -/
def Raised (o : Occurrence) (s : State) (m : FaultMonitor) : Prop :=
  let k := s.fault.kinds[o.kind.number]
  m.kinds[o.kind.number] = { k with status := true, count := min 65535 (k.count + 1) } ∧
  (∀ i, i ≠ o.kind.number → m.kinds[i] = s.fault.kinds[i]) ∧
  m.mask = s.fault.mask ∧
  (k.masked = true →
    m.capture = s.fault.capture ∧ m.flags = s.fault.flags ∧ m.fatalDue = s.fault.fatalDue) ∧
  (k.masked = false →
    m.flags = s.fault.flags ||| k.severity.flag.bit ∧
    m.fatalDue = (s.fault.fatalDue || k.severity == .fatal) ∧
    (s.fault.capture = none →
      m.capture = some
        { kind := .error o.kind, severity := k.severity, partTime := s.now,
          showTime := s.now + s.cue.syncOffset, origin := o.origin, detail := o.detail, more := false,
          moreCount := 0 }) ∧
    (∀ c, s.fault.capture = some c →
      m.capture = some { c with more := true, moreCount := min 65535 (c.moreCount + 1) }))

/-- The command completes with one error occurrence: its own steps leave `u` but for the fault monitor, which
takes the occurrence as the state `u` has it. -/
def CompletesRaising (c : Instr) (s u : State) (o : Occurrence) : Prop :=
  ∃ m, Raised o u m ∧ Completes c s { u with fault := m }

/-! ### How a statement speaks of a score -/

/-- The fields of an event are in the ranges of 01 Table 1.3.1. -/
def EventInRange (e : Event) : Prop :=
  e.tick ≤ 4294967295 ∧
    match e.data with
    | .note pitch velocity _ => pitch ≤ 127 ∧ 1 ≤ velocity ∧ velocity ≤ 127
    | .hold _ _ => True
    | .rotor _ target => target ≤ 120
    | .tempo p => 200000 ≤ p ∧ p ≤ 2000000
    | .meter m => 1 ≤ m ∧ m ≤ 16
    | .mark n => n ≤ 255
    | .ending => True

/-- The ticks of a batch do not fall, from a lower bound on, and no event follows an END (01 R10 step 4). -/
def BatchInOrder (low : Nat) (es : List Event) : Prop :=
  (low :: es.map Event.tick).Pairwise (· ≤ ·) ∧ ∀ e ∈ es.dropLast, e.data ≠ .ending

/-- CUE_LOW, set when the slot's unplayed count is below its low-water mark and its ring is open (01 R24). -/
def withLow (x : Slot) (m : FaultMonitor) : FaultMonitor :=
  if x.ring.unplayed.length < x.lowWater ∧ x.ring.closed = false then
    { m with flags := m.flags ||| AttentionFlag.cueLow.bit }
  else m

/-- The anchor at the head entry, one lead-in after show time now, or pending with nothing unplayed (01 R15). -/
def headAnchor (s : State) (x : Slot) (tempo : Nat) : Anchor :=
  match x.ring.unplayed with
  | e :: _ => .set e.tick (s.now + s.cue.syncOffset + (x.leadInMs : Int) * 1000) tempo
  | [] => .pending tempo

/-- Slot `k` starts in `s` and leaves `u` (02 R31): out of the waiting set, SOUNDING, the section PLAYING, the anchor
set, and the low-water comparison. -/
def Starts (k : SlotId) (s u : State) : Prop :=
  u =
    { updSlot k (fun x =>
        { x with
          state := .sounding, waitingOrder := none, anchor := headAnchor s x x.timing.tempo }) s with
      arb := { s.arb with waiting := s.arb.waiting.filter fun w => w.slot != k }
      sect := { s.sect with state := .playing }
      fault := withLow s.cue.slots[k] s.fault }

/-- Slot `k` is withdrawn in `s` and leaves `u` (04 R82): its firings leave the list, its pulses the next-pulse slots,
and pulses in drive run on. -/
def Withdraws (k : SlotId) (s u : State) : Prop :=
  u.sched = { s.sched with fireList := s.sched.fireList.filter fun f => f.kind.source != .slot k } ∧
  (∀ c : ChannelId, u.drive.strikes[c] =
    if s.drive.strikes[c].nextPulse.map Pulse.source = some (.slot k) then
      { s.drive.strikes[c] with nextPulse := none }
    else s.drive.strikes[c]) ∧
  u = { s with sched := u.sched, drive := { s.drive with strikes := u.drive.strikes } }

/-- The occupant `k` is preempted in `s` and leaves `u` (02 R33, Table 2.3.2). The freeze point of a SOUNDING slot is
found before its rewind; `Obligations.FreezeRewindAndRelease` says what they are. -/
def Preempts (k : SlotId) (s u : State) : Prop :=
  ∃ (p : PauseRecord) (w : State),
    (s.cue.slots[k].state = .sounding →
      Withdraws k s w ∧ p = freezeOf s.now (actingPlaces k s) s.cue.slots[k]) ∧
    (s.cue.slots[k].state = .paused → w = s ∧ s.cue.slots[k].pause = some p) ∧
    let x := if s.cue.slots[k].state = .sounding ∧ p.point = .entry then s.cue.slots[k].rewind p.freezeTick
      else s.cue.slots[k]
    let timing : CommitState := match p.resumeTick with
      | some t => match x.ring.retained.find? fun c => t ≤ c.event.tick with
        | some c => c.note.before
        | none => x.timing
      | none => x.timing
    let record : ContextRecord :=
      { slot := k, freeze := p, timing := timing, transposition := x.transposition, dynamics := x.dynamics,
        holds := mapAll HoldChannel.on s.drive.holds, rotorTargets := mapAll RotorChannel.target s.drive.rotors,
        savedMask := x.priority }
    u =
      { updSlot k (fun _ => { x with state := .suspended, anchor := .pending x.timing.tempo, pause := none }) w with
        arb := { s.arb with stack := record :: s.arb.stack }
        fault := { s.fault with flags := s.fault.flags ||| AttentionFlag.preempt.bit } }

/-- A rotor takes a target: the hush ramp clears, and a stopped timer starts if the target differs from the current
speed (06 R124). -/
def rotorTo (now : Time) (target : Nat) (x : RotorChannel) : RotorChannel :=
  { x with
    target := target, hushRamp := false,
    timer := if target ≠ x.current ∧ x.timer = none then some (now + 100000) else x.timer }

/-- The slot record of a resumed cue before it sounds (02 R37 steps 3 and 4). -/
def resumedSlot (r : ContextRecord) (x : Slot) : Slot :=
  let y := { x with transposition := r.transposition, dynamics := r.dynamics }
  match r.freeze.point, x.rewindMode with
  | .entry, .exactMode => y.rewind r.freeze.freezeTick
  | .entry, .beatMode | .entry, .barMode | .tail, .beatMode | .tail, .barMode =>
    match r.freeze.resumeTick with
    | some t => y.rewind t
    | none => y
  | .tail, .exactMode | .none, _ => y

/-- The top record `r` resumes in `s` over the records beneath it, and leaves `u` (02 R37). -/
def Resumes (r : ContextRecord) (beneath : List ContextRecord) (s u : State) : Prop :=
  let y := resumedSlot r s.cue.slots[r.slot]
  (∀ h : HoldId, u.drive.holds[h] = { s.drive.holds[h] with on := r.holds[h] }) ∧
  (∀ m : RotorId, u.drive.rotors[m] = rotorTo s.now r.rotorTargets[m] s.drive.rotors[m]) ∧
  u =
    { updSlot r.slot (fun _ =>
        { y with state := .sounding, timing := r.timing, anchor := headAnchor s y r.timing.tempo }) s with
      arb := { s.arb with stack := beneath }
      sect := { s.sect with state := .playing }
      drive := { s.drive with holds := u.drive.holds, rotors := u.drive.rotors }
      fault := withLow y { s.fault with flags := s.fault.flags ||| AttentionFlag.preempt.bit } }

/-- The best waiting cue (02 R32): of the highest priority, and among those nearest the front. -/
def BestWaiting (k : SlotId) (s : State) : Prop :=
  ∃ front w behind, s.arb.waiting = front ++ w :: behind ∧ w.slot = k ∧
    (∀ x ∈ front, s.cue.slots[x.slot].priority < s.cue.slots[k].priority) ∧
    (∀ x ∈ behind, s.cue.slots[x.slot].priority ≤ s.cue.slots[k].priority)

/-- A slot's priority exceeds a mask, or is 7 (02 R29). -/
def Exceeds (k : SlotId) (mask : Nat) (s : State) : Prop :=
  mask < s.cue.slots[k].priority ∨ s.cue.slots[k].priority = 7

/-- The sounding role freed in `s` is handed on, and leaves `u` (02 R35, Table 2.3.1). -/
def HandsOn (s u : State) : Prop :=
  match s.arb.stack with
  | r :: beneath =>
    (∀ k, BestWaiting k s → Exceeds k r.savedMask s → Starts k s u) ∧
    ((∀ k, BestWaiting k s → ¬ Exceeds k r.savedMask s) → Resumes r beneath s u)
  | [] =>
    (∀ k, BestWaiting k s → Exceeds k s.arb.baseMask s → Starts k s u) ∧
    ((∀ k, BestWaiting k s → ¬ Exceeds k s.arb.baseMask s) → u = { s with sect := { s.sect with state := .quiet } })

/-- The best waiting cue is judged against the base mask in `s`, and leaves `u` (02 R43). -/
def Judged (s u : State) : Prop :=
  (∀ k, BestWaiting k s → Exceeds k s.arb.baseMask s → Starts k s u) ∧
  ((∀ k, BestWaiting k s → ¬ Exceeds k s.arb.baseMask s) → u = s)

/-- Slot `k` alone holds the sounding role (02 R28). -/
def HoldsRoleAlone (k : SlotId) (s : State) : Prop :=
  holdsRole s.cue.slots[k] = true ∧ ∀ j : SlotId, holdsRole s.cue.slots[j] = true → j = k

/-- No slot holds the sounding role. -/
def RoleFree (s : State) : Prop := ∀ k : SlotId, holdsRole s.cue.slots[k] = false

/-- Slot `k` is emptied in `s`, its firings withdrawn first, and leaves `u` (01 R3). -/
def Empties (k : SlotId) (s u : State) : Prop :=
  ∃ w, Withdraws k s w ∧
    u = updSlot k (fun x =>
      if x.state = .empty then x
      else { x with
        state := .empty, ring := { release := 0, retained := [], unplayed := [], closed := false },
        anchor := .pending 500000, waitingOrder := none, pause := none }) w

/-! ### How a statement speaks of a firing -/

/-- A firing of this fire time and kind is placed in `s`, and leaves `u` (04 R65, R66): the next number, WAITING, behind
every firing at or before its time and before the first later one. -/
def Places (time : Time) (kind : FiringKind) (s u : State) : Prop :=
  ∃ front behind, s.sched.fireList = front ++ behind ∧ (∀ g ∈ front, g.fireTime ≤ time) ∧
    (∀ g, behind.head? = some g → time < g.fireTime) ∧
    u = { s with sched := { s.sched with
      placementCounter := s.sched.placementCounter + 1
      fireList := front ++
        { number := s.sched.placementCounter + 1, fireTime := time, state := .waiting, kind := kind } :: behind } }

/-- The firing `f` leaves the list of `s`, and leaves `u` (04 R84). -/
def Leaves (f : Firing) (s u : State) : Prop :=
  ∃ front behind, s.sched.fireList = front ++ f :: behind ∧ f ∉ front ∧
    u = { s with sched := { s.sched with fireList := front ++ behind } }

/-- The fire time of `f` arrives in `s`, and leaves `u` (04 R74, R78 to R81, 02 R39). -/
def Arrives (f : Firing) (s u : State) : Prop :=
  match f.kind with
  | .strike _ _ _ shot | .test shot =>
    ∃ front behind, s.sched.fireList = front ++ f :: behind ∧ f ∉ front ∧
      u = { s with sched := { s.sched with fireList :=
        front ++ { f with state := .railWait (f.fireTime + (s.sched.lateLimitsMs[shot.lane] : Int) * 1000) } ::
          behind } }
  | .hold _ h on => ∃ v, Leaves f s v ∧ u = updHold h (fun x => { x with on := on }) v
  | .rotor _ m target => ∃ v, Leaves f s v ∧ u = updRotor m (rotorTo s.now target) v
  | .mark e n =>
    ∃ v, Leaves f s v ∧
      u = { v with
        sched := { v.sched with
          lastMark := some { slot := e.slot, number := n, showTime := f.fireTime + s.cue.syncOffset } }
        fault := { s.fault with flags := s.fault.flags ||| AttentionFlag.cueMark.bit } }
  | .ending e =>
    ∃ v w, Leaves f s v ∧
      Empties e.slot { v with fault := { s.fault with flags := s.fault.flags ||| AttentionFlag.cueDone.bit } } w ∧
      HandsOn w u

/-- Firings arrive in `s` one after the other, and leave `u`. One that an arrival before it has withdrawn does not
arrive (04 R74, R82). -/
def ArriveInTurn : List Firing → State → State → Prop
  | [], s, u => u = s
  | f :: rest, s, u =>
    (f ∈ s.sched.fireList → ∃ v, Arrives f s v ∧ ArriveInTurn rest v u) ∧
    (f ∉ s.sched.fireList → ArriveInTurn rest s u)

/-- The firing `f` of the list of `s` arrives in list order, behind the WAITING firings in front of it whose fire times
have come too, and leaves `u` (04 R74, R78). -/
def ArrivesInListOrder (f : Firing) (s u : State) : Prop :=
  ∃ front behind, s.sched.fireList = front ++ f :: behind ∧ f ∉ front ∧
    ArriveInTurn ((front.filter fun g => g.state = .waiting ∧ g.fireTime ≤ (s.partTime : Int)) ++ [f]) s u

/-- The head entry `e` of slot `k` is passed by the commit cursor in `s`, with its annotation, and leaves `u`: release
(01 R23; `Obligations.FreezeRewindAndRelease` says what it is) and notices (01 R24). -/
def Passes (k : SlotId) (e : Event) (rest : List Event) (note : Annotation) (s u : State) : Prop :=
  let x := s.cue.slots[k]
  u =
    { updSlot k (fun y =>
        Slot.releaseEntries s.now { y with ring := { y.ring with
          retained := y.ring.retained ++ [{ event := e, note := note }]
          unplayed := rest } }) s with
      fault := { s.fault with flags :=
        s.fault.flags |||
          (if rest.length < x.lowWater ∧ x.ring.closed = false then AttentionFlag.cueLow.bit else 0) |||
          (if rest = [] ∧ x.ring.closed = false then AttentionFlag.underrun.bit else 0) } }

/-! ### How a statement speaks of what is due -/

/-- The flight time that enters an entry's commit time: 0 unless it is a NOTE that maps to a group (01 R17). -/
def flightOf (s : State) (x : Slot) (e : Event) : Nat :=
  match e.data with
  | .note pitch velocity _ =>
    match translate s.pitch (pitch + x.transposition) with
    | .mapped _ g =>
      flightAt s.pitch.curves[s.pitch.groups[g].curve] (max 1 (min 127 (velocity * x.dynamics / 100)))
    | .outOfRange | .noWindow | .noMembers _ _ => 0
  | .hold _ _ | .rotor _ _ | .tempo _ | .meter _ | .mark _ | .ending => 0

/-- The entry's commit takes a place in the fire list (01 R19 condition 5). -/
def TakesPlace (s : State) (x : Slot) (e : Event) : Prop :=
  match e.data with
  | .note pitch _ _ => ∃ i g, translate s.pitch (pitch + x.transposition) = .mapped i g
  | .hold _ _ | .rotor _ _ | .mark _ | .ending => True
  | .tempo _ | .meter _ => False

/-- Conditions 1 to 4 of a commit (01 R19): slot `k`, the lowest that is SOUNDING (R28 allows one), has its anchor set
and the entry `e` at the head of what is unplayed, and show time now is at or after the commit time of `e`. -/
def HeadDue (k : SlotId) (e : Event) (s : State) : Prop :=
  let x := s.cue.slots[k]
  x.state = .sounding ∧ (∀ j : SlotId, s.cue.slots[j].state = .sounding → k ≤ j) ∧
  x.ring.unplayed.head? = some e ∧
  ∃ (tick : Nat) (time : Time) (tempo : Nat), x.anchor = .set tick time tempo ∧
    time + (((e.tick : Int) - tick) * tempo).tdiv 240 - flightOf s x e - (s.cue.horizonMs : Int) * 1000 ≤
      (s.partTime : Int) + s.cue.syncOffset

/-- The five conditions of a commit of slot `k` (01 R19). -/
def CommitDueIn (k : SlotId) (s : State) : Prop :=
  ∃ e, HeadDue k e s ∧ (TakesPlace s s.cue.slots[k] e → s.sched.fireList.length < 64)

/-- A commit is due (01 R19). -/
def CommitDue (s : State) : Prop := ∃ k, CommitDueIn k s

/-- A commit waits on space, condition 5 alone (01 R19, 04 R84): the other four hold, the entry takes a place, and the
fire list holds 64 firings. -/
def WaitsOnSpace (s : State) : Prop :=
  ∃ k e, HeadDue k e s ∧ TakesPlace s s.cue.slots[k] e ∧ 64 ≤ s.sched.fireList.length

/-- The command stands for an event of the part that is due at part time now (05 R89, 01 R19, 04 R74, R75, 06 R113,
R114, R125, 07 R140, 09 R171, R172, R176). The sense results of a pulse that it may begin are free values (log 9). -/
def DueNow (s : State) (c : Instr) : Prop :=
  let now : Time := s.partTime
  let sense : BitVec 96 := Config.noCoilCurrent s.freeCount
  match c with
  | .phaseStart v => s.partTime % 250 = 0 ∧ s.rail.lastPhaseStart ≠ some s.partTime ∧ v = sense
  | .commit => CommitDue s
  | .fireTimeArrival => ∃ f ∈ s.sched.fireList, f.state = .waiting ∧ f.fireTime ≤ now
  | .lateExpiry n => ∃ f ∈ s.sched.fireList, f.number = n ∧ ∃ t, f.state = .railWait t ∧ t ≤ now
  | .pulseEnd k => ∃ p, s.drive.strikes[k].state = .driving p ∧ p.endTime ≤ now
  | .recoveryEnd k v =>
    s.drive.strikes[k].state = .recover ∧ s.drive.strikes[k].readyTime ≤ now ∧ v = sense.getLsbD k.val
  | .rampTimerExpiry m => ∃ t, s.drive.rotors[m].timer = some t ∧ t ≤ now
  | .pendantSilenceExpiry => ∃ t, s.sect.silenceTimer = some t ∧ t ≤ now
  | .longBreak => ∃ t, s.showUnit.spaceStart = some t ∧ s.showUnit.causeLatch = false ∧ t + 2000 ≤ now
  | .breakCondition l =>
    ∃ t, (s.unit l).spaceStart = some t ∧ (s.unit l).breakFlag = false ∧ 22000000 ≤ (now - t) * lineRate s l
  | .replyTransmissionEnd l =>
    ∃ x, (s.unit l).shifter = some x ∧
      11000000 * (x.frame.body.length + 3 : Nat) ≤ (now - x.since) * lineRate s l
  | _ => False

/-- The command is the request of the frame that a link presents, its oldest (09 R173), with the sense result of a
pulse that SET CHANNEL may begin a free value (log 9). -/
def PresentedNow (s : State) (c : Instr) : Prop :=
  ∃ (l : Link) (b : BufferedFrame) (rest : List BufferedFrame) (kind tag : Byte) (fields : List Byte),
    (s.unit l).buffers = b :: rest ∧ b.body = kind :: tag :: fields ∧
    c.request? = some (kind, { link := l, address := b.address, tag := tag, fields := fields }) ∧
    (∀ k f, c = .unknownRequest k f → k ∉ requestKinds) ∧
    (∀ f v, c = .setChannel f v → v = (Config.noCoilCurrent s.freeCount).getLsbD 0)

/-- The frame that a link presents was presented less than 200 µs ago (09 R173). -/
def BeforeDeadline (s : State) (l : Link) : Prop :=
  ∃ t, (s.unit l).presentedAt = some t ∧ (s.partTime : Int) < t + 200

/-! ### How a statement speaks of pulses and rails -/

/-- A pulse begins on channel `c` in `s`, and leaves `u` (06 R112, 04 R77): DRIVING until its width is over, counted,
its lateness measured unless it is a TEST pulse, and DRIVE_OPEN when no coil current is seen. -/
def Begins (c : ChannelId) (p : Pulse) (noCurrent : Bool) (s u : State) : Prop :=
  let lateness := ((s.partTime : Int) - p.fireTime).toNat
  let old := s.sched.stats
  let v : State :=
    { updStrike c (fun x =>
        { x with
          state := .driving { pulse := p, beginTime := s.partTime, endTime := (s.partTime : Int) + p.width }
          pulseCount := x.pulseCount + 1
          lastSense := if noCurrent = true then .opened else .none
          lastWidth := p.width }) s with
      sched := { s.sched with stats :=
        if p.source = .test then old
        else { old with
          lateBegins := if 250 < lateness then min 65535 (old.lateBegins + 1) else old.lateBegins
          maxLateness := max old.maxLateness (min 4294967295 lateness) } } }
  (noCurrent = false → u = v) ∧
  (noCurrent = true →
    ∃ m, Raised { kind := .driveOpen, origin := .channel c, detail := .drive c p.width } v m ∧
      u = { v with fault := m })

/-- Rail `r` takes the record `y` in `s`, and leaves `u`: RAIL_OVERLOAD is raised when its latch goes from clear to
set (05 R98, R101). -/
def TakesRail (r : RailId) (y : Rail) (s u : State) : Prop :=
  let v := updRail r (fun _ => y) s
  (s.rail.rails[r].latch = false → y.latch = true →
    ∃ m, Raised { kind := .railOverload, origin := .rail r, detail := .rail y.accumulator y.limit } v m ∧
      u = { v with fault := m }) ∧
  (s.rail.rails[r].latch = true ∨ y.latch = false → u = v)

/-- The standing load of a rail: the loads of its holds that are ON and of its rotors that turn (05 R99). -/
def loadOn (s : State) (r : RailId) : Nat :=
  (s.drive.holds.toList.filter fun h => h.rail = r ∧ h.on = true).foldr (fun h n => h.load + n) 0 +
  (s.drive.rotors.toList.filter fun m => m.rail = r ∧ 0 < m.current).foldr (fun m n => m.load + n) 0

/-- Rail `r` is accounted in `s`, and leaves `u` (05 R97, R98). -/
def Accounts (r : RailId) (s u : State) : Prop :=
  let x := s.rail.rails[r]
  let accumulator := min 65535 (x.accumulator - x.drain + loadOn s r)
  TakesRail r
    { x with
      accumulator := accumulator, standingLoad := loadOn s r
      near := decide (x.limit * 3 / 4 < accumulator), latch := x.latch || decide (x.limit < accumulator) } s u

/-! ### How a statement speaks of a hush -/

/-- The section record and the flags when a hush with the record `r` completes (07 R134, Table 7.2.3). -/
def HushEnds (r : SectionRecord) (s u : State) : Prop :=
  (r.hushTarget = .service →
    u.sect = { r with state := .service, takeover := if r.takeover = .claiming then .held else r.takeover } ∧
    u.fault = { s.fault with flags :=
      s.fault.flags ||| AttentionFlag.hushDone.bit |||
        if r.takeover = .claiming then AttentionFlag.takeover.bit else 0 }) ∧
  (r.hushTarget = .quiet →
    u.sect = { r with state := if r.haltPending then .halted else .quiet, silenceTimer := none } ∧
    u.fault = { s.fault with flags := s.fault.flags ||| AttentionFlag.hushDone.bit })

/-- The hush record that a hush begins with (07 R131): a stopped silence timer starts when the target is SERVICE. -/
def hushRecord (target : HushTarget) (halt : Bool) (s : State) : SectionRecord :=
  { s.sect with
    state := .hushing, hushTarget := target, haltPending := s.sect.haltPending || halt,
    silenceTimer := match target with
      | .service => some (s.sect.silenceTimer.getD (s.now + 2000000))
      | .quiet => s.sect.silenceTimer }

/-- A hush begins in `s` and leaves `u` (07 R131, R132): cues emptied, fire list emptied, pulses cut and slots
emptied, holds OFF, rotors to rest; and completes at once when every rotor is at rest. -/
def HushBegins (target : HushTarget) (halt : Bool) (s u : State) : Prop :=
  (∀ k : SlotId, u.cue.slots[k] =
    if s.cue.slots[k].state = .empty then s.cue.slots[k]
    else { s.cue.slots[k] with
      state := .empty, ring := { release := 0, retained := [], unplayed := [], closed := false },
      anchor := .pending 500000, waitingOrder := none, pause := none }) ∧
  u.cue.syncOffset = s.cue.syncOffset ∧ u.cue.horizonMs = s.cue.horizonMs ∧
  u.arb = { s.arb with stack := [], waiting := [] } ∧
  u.sched = { s.sched with fireList := [] } ∧
  (∀ c : ChannelId, u.drive.strikes[c] =
    if s.drive.strikes[c].gate = true then
      { s.drive.strikes[c] with
        state := .recover, lastPulseEnd := some s.now,
        readyTime := s.now + (s.drive.strikes[c].recoveryMs : Int) * 1000, nextPulse := none }
    else { s.drive.strikes[c] with nextPulse := none }) ∧
  (∀ h : HoldId, u.drive.holds[h] = { s.drive.holds[h] with on := false }) ∧
  (∀ m : RotorId, u.drive.rotors[m] =
    if s.drive.rotors[m].current = 0 then
      { s.drive.rotors[m] with target := 0, hushRamp := false, timer := none }
    else
      { s.drive.rotors[m] with
        target := 0, hushRamp := true, timer := some (s.drive.rotors[m].timer.getD (s.now + 100000)) }) ∧
  (if ∀ m : RotorId, s.drive.rotors[m].current = 0 then HushEnds (hushRecord target halt s) s u
    else u.sect = hushRecord target halt s ∧ u.fault = s.fault) ∧
  u.partTime = s.partTime ∧ u.pitch = s.pitch ∧ u.rail = s.rail ∧ u.showUnit = s.showUnit ∧
  u.serviceUnit = s.serviceUnit ∧ u.settings = s.settings ∧ u.freeCount = s.freeCount ∧ u.pending = s.pending

end Sys2Proof.Machine.Safety
end

