-- ==== Sys2Proof/Certificates/Slice0/Obligations.lean ====
section
/-! DEFINITION. The statements about the model. Each holds for every state its hypotheses allow, whether or not a
run reaches it. `Completes c s u` says that the command `c` answers a next state, and that its own steps leave `u`;
`Obligations.EndOfEvent` and `Obligations.FatalCause` say what ends every event. -/

section StatementsOfSlice0

open Sys2Proof Sys2Proof.Machine Sys2Proof.Machine.Safety

/-! ### The machine -/

/-- A step with a command at the front of the queue runs that command on the state with the queue's rest. -/
def Obligations.StepRunsTheFrontCommand : Prop :=
  ∀ (c : Instr) (s : State), step { s with pending := c :: s.pending } = exec c s

/-- With no command waiting (the model's choice, log 1 and 2): what is due and what the links present is what their
rules say, with the sense results of a pulse free values (log 9) and bit times exact (log 18). A microsecond goes by
when nothing is due and no frame is presented. When something is due the step runs a due event or a presented request.
When frames are presented and nothing is due, it runs one of their requests, or lets a microsecond go by while every
presented frame is less than 200 µs from its presentation (09 R173). -/
def Obligations.IdleStep : Prop :=
  ∀ s : State, s.pending = [] →
    (∀ c, c ∈ dueEvents s ↔ DueNow s c) ∧
    (∀ c, c ∈ presentedCommands s ↔ PresentedNow s c) ∧
    (dueEvents s = [] → presentedCommands s = [] → step s = .next { s with partTime := s.partTime + 1 }) ∧
    (dueEvents s ≠ [] →
      ∃ c ∈ dueEvents s ++ presentedCommands s, step s = exec c { s with freeCount := s.freeCount + 1 }) ∧
    (dueEvents s = [] → presentedCommands s ≠ [] →
      (∃ c ∈ presentedCommands s, step s = exec c { s with freeCount := s.freeCount + 1 }) ∨
      ((∀ (l : Link) (b : BufferedFrame) (rest : List BufferedFrame) (kind tag : Byte) (fields : List Byte),
          (s.unit l).buffers = b :: rest → b.body = kind :: tag :: fields → BeforeDeadline s l) ∧
        step s = .next { s with partTime := s.partTime + 1, freeCount := s.freeCount + 1 }))

/-- POWER_ON and the reset pin: every field of the part at its power-on value (01 Table 1.1.1, R13, R18, 02 R27,
03 Tables 3.1.2 and 3.4.2, 04 R65, R66, R80, R85, R86, 05 R90, R91, Table 5.3.1, 06 Tables 6.2.1, 6.3.1 and 6.4.1,
07 Table 7.1.3, 08 R147, R151, R153, R160, 09 R165, R168, R176, R178). No phase has begun (log 8), no pulse has
driven (log 13), no fatal cause is due (log 12), and the queue and the count of free values stay as they are (log 5,
26): those are the model's own. -/
def Obligations.PowerOnValues : Prop :=
  ∀ (address : BitVec 5) (rate : BitVec 2) (showAtSpace serviceAtSpace : Bool) (s : State),
    ∃ t, exec (.powerOn address rate showAtSpace serviceAtSpace) s = .next t ∧
      t.partTime = 0 ∧ t.cue.syncOffset = 0 ∧ t.cue.horizonMs = 30 ∧
      (∀ k : SlotId, t.cue.slots[k] =
        { state := .empty, priority := 0, rewindMode := .exactMode, leadInMs := 100, lowWater := 32,
          transposition := 0, dynamics := 100,
          ring := { release := 0, retained := [], unplayed := [], closed := false }, anchor := .pending 500000,
          timing := { tempo := 500000, barOrigin := 0, beatsPerBar := 4 }, waitingOrder := none, pause := none }) ∧
      t.arb = { stack := [], waiting := [], baseMask := 0, startSequence := 0 } ∧
      (∀ w : WindowId, t.pitch.windows[w] = { enabled := false, firstPitch := 0, count := 1, firstGroup := 0 }) ∧
      (∀ g : GroupId, t.pitch.groups[g] = { members := [], curve := 0, policy := .delay, delayLimitMs := 5 }) ∧
      (∀ c : CurveId, t.pitch.curves[c] =
        #v[⟨400, 30000⟩, ⟨1000, 20000⟩, ⟨1800, 14000⟩, ⟨2800, 10000⟩, ⟨4000, 8000⟩]) ∧
      t.pitch.lanes = #v[0, 0, 0, 0, 1, 1, 1, 1] ∧
      t.sched =
        { fireList := [], placementCounter := 0, lateLimitsMs := #v[4, 2],
          stats := { lateBegins := 0, maxLateness := 0, skippedUnmapped := 0, skippedLate := 0, skippedBusy := 0,
                     expired := 0 },
          lastMark := none } ∧
      (∀ n : Fin 64, t.rail.table[n] = some (Fin.ofNat 4 n.val)) ∧ t.rail.pendingTable = .empty ∧
      t.rail.lastPhaseStart = none ∧
      (∀ r : RailId, t.rail.rails[r] =
        { limit := 4000, drain := 100, accumulator := 0, standingLoad := 0, near := false, latch := false }) ∧
      (∀ c : ChannelId, t.drive.strikes[c] =
        { rail := 0, currentClass := 1, recoveryMs := 20, state := .idle, nextPulse := none, fenced := false,
          group := none, lastPulseEnd := none, readyTime := 0, lastSense := .none, pulseCount := 0,
          lastWidth := 0 }) ∧
      (∀ h : HoldId, t.drive.holds[h] = { rail := 0, load := 0, on := false }) ∧
      (∀ m : RotorId, t.drive.rotors[m] =
        { rail := 0, load := 0, rampStep := 10, target := 0, current := 0, hushRamp := false, timer := none }) ∧
      t.sect =
        { state := .quiet, hushTarget := .quiet, haltPending := false, takeover := .none, breakHush := true,
          silenceTimer := none } ∧
      (∀ k : ErrorKind, t.fault.kinds[k.number].status = false ∧ t.fault.kinds[k.number].masked = false ∧
        t.fault.kinds[k.number].count = 0 ∧
        t.fault.kinds[k.number].severity =
          match k with
          | .linkCheck | .linkFraming | .linkTruncated | .strikeLate | .strikeBusy | .clockSlip => .advisory
          | .driveShort => .fatal
          | .linkOverrun | .replyLost | .pitchUnmapped | .railOverload | .driveOpen | .pendantLost => .nonfatal) ∧
      t.fault.mask = 0 ∧ t.fault.fatalDue = false ∧
      (address ≠ 31 → t.fault.capture = none ∧ t.fault.flags = AttentionFlag.restarted.bit) ∧
      (address = 31 →
        t.fault.capture = some
          { kind := .strapNotice, severity := .nonfatal, partTime := 0, showTime := 0, origin := .link .showLink,
            detail := .link (some 31) none [], more := false, moreCount := 0 } ∧
        t.fault.flags = AttentionFlag.restarted.bit ||| AttentionFlag.nonfatal.bit) ∧
      (∀ l : Link, t.unit l =
        { receiver := .hunt, breakFlag := false, causeLatch := false, buffers := [], presentedAt := none,
          replySlot := none, shifter := none,
          spaceStart :=
            if (match l with | .showLink => showAtSpace | .servicePort => serviceAtSpace) = true then some 0
            else none }) ∧
      t.settings = { ownAddress := address, rate := rate, exchange := Vector.replicate 8 0 } ∧
      t.freeCount = s.freeCount ∧ t.pending = s.pending

/-- The state after reset satisfies every law that the invariants below keep. -/
def Obligations.ResetSatisfiesTheLaws : Prop :=
  FatalDelivered State.reset ∧ ShortIsFatal State.reset ∧ OverloadLatched State.reset ∧ NearFlagTrue State.reset ∧
  FencedSilent State.reset ∧ FireListInOrder State.reset ∧ BuffersBounded State.reset ∧
  ClassZeroInLaneZero State.reset ∧ RingsInOrder State.reset ∧ HushingSilent State.reset ∧ RoleLaw State.reset ∧
  WindowsApart State.reset ∧ WindowsValid State.reset ∧ MembershipAgrees State.reset ∧
  HaltPendingPlaced State.reset ∧ StackNamesSuspended State.reset ∧ WaitingSetNamesWaiting State.reset

/-- The end of an event. When the head entry's commit was waiting on space before the event and the event's own steps
leave fewer than 64 firings, the commits that are then due follow one another in ring order, each in the state the one
before it left (01 R19, 04 R84); then a fatal cause is delivered (08 R149). Otherwise the event leaves just what its
own steps left, but for that cause. That these commits alone are taken inside the event, and before the fatal cause, is
the model's reading (log 10), and so is the mark of a cause that is due (log 12). `Obligations.Commit` and
`Obligations.CommitOfNote` say what one commit does. -/
def Obligations.EndOfEvent : Prop :=
  ∀ s u : State,
    (waitsOnSpace s = true ↔ WaitsOnSpace s) ∧
    (∀ k, commitReady u = some k ↔ CommitDueIn k u) ∧
    (∀ n, ¬ CommitDue u → commitWhileReady n u = u) ∧
    (∀ n k, CommitDueIn k u → commitWhileReady (n + 1) u = commitWhileReady n (commitHead k u)) ∧
    (∀ k, CommitDueIn k u → exec .commit u = .next (settle u (commitHead k u))) ∧
    (¬ WaitsOnSpace s ∨ 64 ≤ u.sched.fireList.length ∨ ¬ CommitDue u → settle s u = deliverFatal u) ∧
    (∀ k, WaitsOnSpace s → u.sched.fireList.length < 64 → CommitDueIn k u →
      settle s u = deliverFatal (commitWhileReady 1023 (commitHead k u))) ∧
    (u.fault.fatalDue = false → deliverFatal u = u)

/-- A fatal cause (08 R149): during HUSHING it sets halt-pending and restarts nothing; otherwise it begins a hush
with halt-pending set, whose target is SERVICE in SERVICE and QUIET elsewhere. With every rotor at rest that hush
completes at once (07 R132 step 4), also where 07 Table 7.6.1 speaks of HUSHING (the model's reading, log 31). -/
def Obligations.FatalCause : Prop :=
  ∀ u : State, u.fault.fatalDue = true →
    (u.sect.state = .hushing →
      deliverFatal u =
        { u with fault := { u.fault with fatalDue := false }, sect := { u.sect with haltPending := true } }) ∧
    (u.sect.state ≠ .hushing →
      HushBegins (if u.sect.state = .service then .service else .quiet) true
        { u with fault := { u.fault with fatalDue := false } } (deliverFatal u))

/-! ### The links -/

/-- An address character (09 R169, R171): none is taken at space after a break; otherwise the break flag clears, a
frame in assembly is discarded with LINK_TRUNCATED, and the value is judged afresh. -/
def Obligations.AddressCharacter : Prop :=
  ∀ (l : Link) (value : Byte) (s : State),
    let deaf : Prop := (s.unit l).breakFlag = true ∧ (s.unit l).spaceStart ≠ none
    let mine : Prop := l = .servicePort ∨ value.toNat = 31 ∨ value.toNat = s.settings.ownAddress.toNat
    let opened : Assembly := { address := value, length := none, body := [], check := checkByte 0 value }
    let u := updUnit l (fun x =>
      { x with breakFlag := false, receiver := if mine then .collect opened else .skip }) s
    (deaf → exec (.addressCharacter l value) s = .next s) ∧
    (¬ deaf → (∀ a, (s.unit l).receiver ≠ .collect a) → Completes (.addressCharacter l value) s u) ∧
    (¬ deaf → ∀ a, (s.unit l).receiver = .collect a →
      CompletesRaising (.addressCharacter l value) s u
        { kind := .linkTruncated, origin := .link l,
          detail := .link (some a.address) a.length (a.body.take 6) })

/-- A data character (09 R170): discarded in HUNT and SKIP; in COLLECT it is the length, a body byte or the check.
A frame with a good check enters a free buffer, which restarts a running pendant silence timer on the service port
(07 R140). -/
def Obligations.DataCharacter : Prop :=
  ∀ (l : Link) (value : Byte) (s : State),
    let c : Instr := .dataCharacter l value
    let now (r : ReceiverState) (x : LinkUnit) : LinkUnit := { x with breakFlag := false, receiver := r }
    let u (r : ReceiverState) : State := updUnit l (now r) s
    let deaf : Prop := (s.unit l).breakFlag = true ∧ (s.unit l).spaceStart ≠ none
    (deaf → exec c s = .next s) ∧
    (¬ deaf → (∀ a, (s.unit l).receiver ≠ .collect a) → Completes c s (u (s.unit l).receiver)) ∧
    (¬ deaf → ∀ a, (s.unit l).receiver = .collect a →
      let frame : Detail := .link (some a.address) a.length (a.body.take 6)
      (a.length = none → 2 ≤ value.toNat → value.toNat ≤ 60 →
        Completes c s (u (.collect { a with length := some value, check := checkByte a.check value }))) ∧
      (a.length = none → value.toNat < 2 ∨ 60 < value.toNat →
        CompletesRaising c s (u .skip)
          { kind := .linkFraming, origin := .link l, detail := .link (some a.address) (some value) [] }) ∧
      (∀ n, a.length = some n → a.body.length < n.toNat →
        Completes c s (u (.collect { a with body := a.body ++ [value], check := checkByte a.check value }))) ∧
      (∀ n, a.length = some n → n.toNat ≤ a.body.length →
        (value ≠ a.check →
          CompletesRaising c s (u .hunt) { kind := .linkCheck, origin := .link l, detail := frame }) ∧
        (value = a.check → 2 ≤ (s.unit l).buffers.length →
          CompletesRaising c s (u .hunt) { kind := .linkOverrun, origin := .link l, detail := frame }) ∧
        (value = a.check → (s.unit l).buffers.length < 2 →
          Completes c s
            (let stored := updUnit l (fun x =>
              { x with
                breakFlag := false, receiver := .hunt,
                buffers := x.buffers ++ [{ address := a.address, body := a.body, completed := s.now }],
                presentedAt := if x.buffers = [] then some s.now else x.presentedAt }) s
            match l with
            | .showLink => stored
            | .servicePort =>
              { stored with sect := { s.sect with
                  silenceTimer := s.sect.silenceTimer.map fun _ => s.now + 2000000 } }))))

/-- The frame check and the characters on a line (09 R166, R167, R176). A receiver that carries its running check on
through the check byte reaches 00h, and the frame of 10 Table 10.4.1 has the check 3Dh. A character is a start bit at
space, its data bits with the least significant first, its marker, and a stop bit at mark; eleven bits received make an
address character, a data character, or, with the stop bit at space, a framing error. While a reply is in the shifter
the line carries its characters back to back, at bit times compared exactly (log 18); otherwise the part releases the
reply line and leaves the pendant's at mark. That a 1 of the data or the marker is a bit at mark is presumed (log 29). -/
def Obligations.FrameCheck : Prop :=
  (∀ (address : Byte) (body : List Byte),
    (address :: byteOf body.length :: (body ++ [frameCheck address body])).foldl checkByte 0 = 0) ∧
  frameCheck 0x05 [0x70, 0x01] = 0x3D ∧
  (∀ (marker : Bool) (data : Byte),
    let bits := Character.bits { marker := marker, data := data }
    bits.getLsbD 0 = false ∧ (∀ i, i < 8 → bits.getLsbD (1 + i) = data.getLsbD i) ∧ bits.getLsbD 9 = marker ∧
      bits.getLsbD 10 = true) ∧
  (∀ (l : Link) (bits : BitVec 11),
    (bits.getLsbD 10 = false → receivedCharacter l bits = .framingError l) ∧
    (∀ value : Byte, bits.getLsbD 10 = true → (∀ i, i < 8 → value.getLsbD i = bits.getLsbD (1 + i)) →
      (bits.getLsbD 9 = true → receivedCharacter l bits = .addressCharacter l value) ∧
      (bits.getLsbD 9 = false → receivedCharacter l bits = .dataCharacter l value))) ∧
  (∀ (l : Link) (s : State),
    (∀ (x : Transmission) (n : Nat) (c : Character), (s.unit l).shifter = some x →
      let data (b : Byte) : Character := { marker := false, data := b }
      let sent : List Character :=
        { marker := true, data := x.frame.address } :: data (byteOf x.frame.body.length) ::
          (x.frame.body.map data ++ [data (frameCheck x.frame.address x.frame.body)])
      (n : Int) * 1000000 ≤ (s.now - x.since) * lineRate s l →
      (s.now - x.since) * lineRate s l < ((n : Int) + 1) * 1000000 →
      sent[n / 11]? = some c → transmitLevel s l = some (c.bits.getLsbD (n % 11))) ∧
    ((s.unit l).shifter = none → transmitLevel s l = match l with | .showLink => none | .servicePort => some true))

/-- Framing errors, breaks and the line's edges (09 R168, R171, R172). A break is due two character times, of 11 bits
each and compared exactly (log 18), after the space start; 2,000 µs at space deliver one cause, which begins a hush
while break hush is enabled and the section is not HUSHING already (07 R136). Before its time such an event does
nothing (the model's choice, log 3). That a framing error leaves the break flag and is not taken at space after a
break, and that a break met in COLLECT discards its frame in silence, is the model's reading (log 15). -/
def Obligations.LineEvents : Prop :=
  (∀ (l : Link) (s : State),
      let deaf : Prop := (s.unit l).breakFlag = true ∧ (s.unit l).spaceStart ≠ none
      (deaf → exec (.framingError l) s = .next s) ∧
      (¬ deaf → ∀ a, (s.unit l).receiver = .collect a →
        CompletesRaising (.framingError l) s (updUnit l (fun x => { x with receiver := .hunt }) s)
          { kind := .linkFraming, origin := .link l, detail := .link (some a.address) a.length (a.body.take 6) }) ∧
      (¬ deaf → (s.unit l).receiver = .skip →
        Completes (.framingError l) s (updUnit l (fun x => { x with receiver := .hunt }) s)) ∧
      (¬ deaf → (s.unit l).receiver = .hunt → exec (.framingError l) s = .next s) ∧
      (∀ t, (s.unit l).spaceStart = some t → (s.unit l).breakFlag = false →
        22000000 ≤ (s.now - t) * lineRate s l →
        Completes (.breakCondition l) s (updUnit l (fun x => { x with breakFlag := true, receiver := .hunt }) s)) ∧
      ((s.unit l).spaceStart = none ∨ (s.unit l).breakFlag = true ∨
          (∃ t, (s.unit l).spaceStart = some t ∧ (s.now - t) * lineRate s l < 22000000) →
        exec (.breakCondition l) s = .next s) ∧
      Completes (.lineReturnToMark l) s (updUnit l (fun x => { x with spaceStart := none, causeLatch := false }) s) ∧
      Completes (.markToSpace l) s (updUnit l (fun x =>
        { x with spaceStart := some (x.spaceStart.getD s.now) }) s)) ∧
  (∀ (s : State) (t : Time), s.showUnit.spaceStart = some t →
      let latched : State := { s with showUnit := { s.showUnit with causeLatch := true } }
      (t + 2000 ≤ s.now → s.showUnit.causeLatch = false → s.sect.breakHush = true → s.sect.state ≠ .hushing →
        ∃ u, HushBegins (if s.sect.state = .service then .service else .quiet) false latched u ∧
          Completes .longBreak s u) ∧
      (t + 2000 ≤ s.now → s.showUnit.causeLatch = false → s.sect.breakHush = false ∨ s.sect.state = .hushing →
        Completes .longBreak s latched) ∧
      (s.now < t + 2000 ∨ s.showUnit.causeLatch = true → exec .longBreak s = .next s))

/-- Presentation and the reply path (09 R173, R175, R176). A link presents its oldest frame, and the event in which its
request is taken, refused or ignored frees the buffer and presents the next one. A produced reply carries the own
address and the kind, tag, code (10 Table 10.2.2) and data; it begins at once, waits in the slot, or is lost with REPLY_LOST. The
shifter sends N + 3 characters of 11 bits, compared exactly (log 18); then a waiting reply begins, or the shifter goes
idle. Before that time, or with an idle shifter, the event changes nothing (the model's choice, log 3). -/
def Obligations.BuffersAndReplies : Prop :=
  [ReplyCode.done, .unknown, .length, .range, .state, .taken, .full, .order, .conflict].map ReplyCode.byte =
    [0, 1, 2, 3, 4, 5, 6, 7, 8] ∧
  (∀ (l : Link) (s : State),
      (∀ x, (s.unit l).shifter = some x →
        11000000 * (x.frame.body.length + 3 : Nat) ≤ (s.now - x.since) * lineRate s l →
        Completes (.replyTransmissionEnd l) s (updUnit l (fun y =>
          { y with
            shifter := y.replySlot.map fun r => { frame := r, since := s.now }, replySlot := none }) s)) ∧
      ((s.unit l).shifter = none ∨
          (∃ x, (s.unit l).shifter = some x ∧
            (s.now - x.since) * lineRate s l < 11000000 * (x.frame.body.length + 3 : Nat)) →
        exec (.replyTransmissionEnd l) s = .next s)) ∧
  (∀ (kind : Byte) (f : Frame) (code : ReplyCode) (data : List Byte) (u : State),
      let r : ReplyFrame :=
        { address := BitVec.ofNat 8 u.settings.ownAddress.toNat, body := kind :: f.tag :: code.byte :: data }
      ((u.unit f.link).shifter = none →
        answered kind f code data u =
          updUnit f.link (fun x => { x with shifter := some { frame := r, since := u.now } }) u) ∧
      ((u.unit f.link).shifter ≠ none → (u.unit f.link).replySlot = none →
        answered kind f code data u = updUnit f.link (fun x => { x with replySlot := some r }) u) ∧
      ((u.unit f.link).shifter ≠ none → (u.unit f.link).replySlot ≠ none →
        ∃ m, answered kind f code data u = { u with fault := m } ∧
          Raised
            { kind := .replyLost, origin := .link f.link,
              detail := .link (some r.address) (some (BitVec.ofNat 8 r.body.length)) (r.body.take 6) } u m)) ∧
  (∀ (kind : Byte) (f : Frame) (s : State) (b : BufferedFrame) (rest : List BufferedFrame),
      (s.unit f.link).buffers = b :: rest → b.address = f.address → b.body = kind :: f.tag :: f.fields →
        presentFrame kind f s = some (b.completed,
          updUnit f.link (fun x =>
            { x with buffers := rest, presentedAt := if rest = [] then none else some s.now }) s))

/-- The envelope (09 R174, Table 9.3.1, 10 Table 10.2.1). An addressed request of a kind that names no request, or that
its link or form may not issue, is refused UNKNOWN; one whose length does not suit its kind is refused LENGTH; a
broadcast of a kind other than SYNC, NUDGE and HUSH, or of a length that does not suit its kind, is ignored. The
buffer is freed, and nothing else changes. -/
def Obligations.Envelope : Prop :=
  (∀ (c : Instr) (kind : Byte) (f : Frame) (s t : State), c.request? = some (kind, f) → c.wellFormed = true →
      Offered kind f s t →
      (kind ∉ requestKinds ∨ kind = 0x14 ∨ (kind ∈ pendantKinds ∧ f.link = .showLink)) →
      Answers kind c f s .unknown [] t) ∧
  (∀ (c : Instr) (kind : Byte) (f : Frame) (s t : State), c.request? = some (kind, f) → c.wellFormed = true →
      Offered kind f s t → kind ∈ requestKinds → kind ≠ 0x14 → (kind ∈ pendantKinds → f.link = .servicePort) →
      lengthSuits kind f.fields = false →
      Answers kind c f s .length [] t) ∧
  (∀ (c : Instr) (kind : Byte) (f : Frame) (s t : State), c.request? = some (kind, f) → c.wellFormed = true →
      OfferedToAll kind f s t →
      (kind ∉ [0x14, 0x15, 0x71] ∨ lengthSuits kind f.fields = false) →
      Completes c s t)

/-- In SERVICE the show link is refused TAKEN every request that configures the part or changes cues or section,
ahead of its range checks (07 R142, Table 7.3.2). -/
def Obligations.TakenInService : Prop :=
  ∀ (c : Instr) (kind : Byte) (f : Frame) (s t : State), c.request? = some (kind, f) → c.wellFormed = true →
    Offered kind f s t → FromShowInService f t → lengthSuits kind f.fields = true →
    (kind ∈ takenKinds ∨ (kind = 0x36 ∧ f.fields ≠ [])) →
    Answers kind c f s .taken [] t

/-! ### Cue engine -/

/-- OPEN CUE, with its checks in order and the slot record it leaves (01 R9). -/
def Obligations.OpenCue : Prop :=
  ∀ (f : Frame) (s t : State) (slot priority t2 t1 t0 beats mode l1 l0 low : Byte),
    Offered 0x10 f s t → f.fields = [slot, priority, t2, t1, t0, beats, mode, l1, l0, low] →
    let a := Answers 0x10 (.openCue f) f s
    let inRange : Prop :=
      slot.toNat ≤ 3 ∧ priority.toNat ≤ 7 ∧ 200000 ≤ u24 t2 t1 t0 ∧ u24 t2 t1 t0 ≤ 2000000 ∧
      1 ≤ beats.toNat ∧ beats.toNat ≤ 16 ∧ mode.toNat ≤ 2 ∧ 20 ≤ u16 l1 l0 ∧ u16 l1 l0 ≤ 2000
    (FromShowInService f t → a .taken [] t) ∧
    (¬ FromShowInService f t → ¬ inRange → a .range [] t) ∧
    (¬ FromShowInService f t → inRange → t.sect.state = .halted ∨ t.sect.state = .hushing → a .state [] t) ∧
    (¬ FromShowInService f t → inRange → ∀ k : SlotId, slot.toNat = k.val → t.cue.slots[k].state ≠ .empty →
      a .state [] t) ∧
    (¬ FromShowInService f t → inRange → t.sect.state ≠ .halted → t.sect.state ≠ .hushing →
      ∀ (k : SlotId) (m : RewindMode), slot.toNat = k.val → t.cue.slots[k].state = .empty → mode = m.code →
        a .done [] (updSlot k (fun _ =>
          { state := .loaded, priority := priority.toNat, rewindMode := m, leadInMs := u16 l1 l0,
            lowWater := low.toNat, transposition := 0, dynamics := 100,
            ring := { release := 0, retained := [], unplayed := [], closed := false },
            anchor := .pending (u24 t2 t1 t0),
            timing := { tempo := u24 t2 t1 t0, barOrigin := 0, beatsPerBar := beats.toNat },
            waitingOrder := none, pause := none }) t))

/-- An event written as its 8-byte record is read back, for every event whose fields are in range (10 R182, Table
10.2.3). -/
def Obligations.EventRecordRoundTrip : Prop :=
  ∀ (e : Event) (rest : List Byte), EventInRange e →
    eventRecords (recordOf e ++ rest) = some e :: eventRecords rest

/-- EVENTS: checked in order and taken whole or not at all; the batch joins the ring, END closes it, and a SOUNDING
slot with its anchor pending anchors at the batch's first event (01 R10, R11). -/
def Obligations.Events : Prop :=
  ∀ (f : Frame) (s t : State) (slot count : Byte) (records : List Byte),
    Offered 0x11 f s t → ¬ FromShowInService f t → f.fields = slot :: count :: records →
    records.length = 8 * count.toNat →
    let a := Answers 0x11 (.events f) f s
    (3 < slot.toNat ∨ count.toNat = 0 ∨ 6 < count.toNat ∨ none ∈ eventRecords records → a .range [] t) ∧
    (∀ (k : SlotId) (es : List Event), slot.toNat = k.val → 1 ≤ count.toNat → count.toNat ≤ 6 →
      eventRecords records = es.map some →
      let x := t.cue.slots[k]
      let stands : Prop := t.sect.state ≠ .halted ∧ x.state ≠ .empty ∧ x.ring.closed = false
      let ordered : Prop := BatchInOrder (x.ring.lastTick.getD 0) es
      (¬ stands → a .state [] t) ∧
      (stands → ¬ ordered → a .order [] t) ∧
      (stands → ordered → 256 < x.ring.retained.length + x.ring.unplayed.length + es.length → a .full [] t) ∧
      (stands → ordered → x.ring.retained.length + x.ring.unplayed.length + es.length ≤ 256 →
        let joined : Ring :=
          { x.ring with
            unplayed := x.ring.unplayed ++ es
            closed := decide (∃ e ∈ es, e.data = .ending) }
        (x.state ≠ .sounding ∨ (∃ tick time tempo, x.anchor = .set tick time tempo) →
          a .done [] (updSlot k (fun y => { y with ring := joined }) t)) ∧
        (∀ (tempo : Nat) (e : Event) (rest : List Event), x.state = .sounding → x.anchor = .pending tempo →
          es = e :: rest →
          a .done [] (updSlot k (fun y =>
            { y with
              ring := joined
              anchor := .set e.tick (t.now + t.cue.syncOffset + (x.leadInMs : Int) * 1000) tempo
              timing := { y.timing with tempo := tempo } }) t))))

/-- SET HORIZON, SET LATE LIMITS and SET BREAK HUSH: the setting takes the value, and nothing else changes
(01 R18, 04 R85, 07 R137). -/
def Obligations.PartSettings : Prop :=
  ∀ (f : Frame) (s t : State), ¬ FromShowInService f t →
    (∀ ms : Byte, Offered 0x13 f s t → f.fields = [ms] →
      (ms.toNat < 5 ∨ 100 < ms.toNat → Answers 0x13 (.setHorizon f) f s .range [] t) ∧
      (5 ≤ ms.toNat → ms.toNat ≤ 100 →
        Answers 0x13 (.setHorizon f) f s .done [] { t with cue := { t.cue with horizonMs := ms.toNat } })) ∧
    (∀ lane0 lane1 : Byte, Offered 0x41 f s t → f.fields = [lane0, lane1] →
      (50 < lane0.toNat ∨ 50 < lane1.toNat → Answers 0x41 (.setLateLimits f) f s .range [] t) ∧
      (lane0.toNat ≤ 50 → lane1.toNat ≤ 50 →
        Answers 0x41 (.setLateLimits f) f s .done [lane0, lane1]
          { t with sched := { t.sched with lateLimitsMs := #v[lane0.toNat, lane1.toNat] } })) ∧
    (∀ enable : Byte, Offered 0x76 f s t → f.fields = [enable] →
      (1 < enable.toNat → Answers 0x76 (.setBreakHush f) f s .range [] t) ∧
      (∀ on : Bool, enable = boolByte on →
        Answers 0x76 (.setBreakHush f) f s .done [enable] { t with sect := { t.sect with breakHush := on } }))

/-- SYNC, a broadcast: the difference of the master show time and the show time of the frame's completion changes the
sync offset, in steps of at most 250 µs up to 20,000 µs and in one step above, with CLOCK_SLIP (01 R25), raised when
the offset has changed, so that a capture's show time has the new offset (the model's reading, log 24). NUDGE of the
SOUNDING slot: the tempo becomes tempo × (100 − n) / 100, held within its range; a set anchor moves to the nudge tick
at its due time under the old anchor (01 R26); the broadcast form acts alike, without a reply. -/
def Obligations.SyncAndNudge : Prop :=
  (∀ (f : Frame) (s t : State) (completed : Time) (b5 b4 b3 b2 b1 b0 : Byte),
      presentFrame 0x14 f s = some (completed, t) → isBroadcast f = true → f.fields = [b5, b4, b3, b2, b1, b0] →
      let d : Int := (u48 b5 b4 b3 b2 b1 b0 : Int) - (completed + t.cue.syncOffset)
      let stepped (by_ : Int) : State := { t with cue := { t.cue with syncOffset := t.cue.syncOffset + by_ } }
      (-20000 ≤ d → d ≤ 20000 → Completes (.sync f) s (stepped (max (-250) (min 250 d)))) ∧
      (d < -20000 ∨ 20000 < d →
        CompletesRaising (.sync f) s (stepped d)
          { kind := .clockSlip, origin := .clock, detail := .clock d (t.cue.syncOffset + d) })) ∧
  (∀ (f : Frame) (s t : State) (percent : Byte), f.fields = [percent] →
      let n : Int := percent.toInt
      let a := Answers 0x15 (.nudge f) f s
      let nudged (p : Nat) : Nat := max 200000 (min 2000000 (((p : Int) * (100 - n)).tdiv 100).toNat)
      (Offered 0x15 f s t → ¬ FromShowInService f t → n < -10 ∨ 10 < n → a .range [] t) ∧
      (Offered 0x15 f s t → ¬ FromShowInService f t → -10 ≤ n → n ≤ 10 →
        (∀ k : SlotId, t.cue.slots[k].state ≠ .sounding) → a .state [] t) ∧
      (OfferedToAll 0x15 f s t →
        t.sect.state = .service ∨ n < -10 ∨ 10 < n ∨ (∀ k : SlotId, t.cue.slots[k].state ≠ .sounding) →
        Completes (.nudge f) s t) ∧
      (∀ k : SlotId, -10 ≤ n → n ≤ 10 → t.cue.slots[k].state = .sounding →
        (∀ j : SlotId, t.cue.slots[j].state = .sounding → j = k) →
        let x := t.cue.slots[k]
        (∀ p u, x.anchor = .pending p →
          u = updSlot k (fun y =>
            { y with anchor := .pending (nudged p), timing := { y.timing with tempo := nudged p } }) t →
          (Offered 0x15 f s t → ¬ FromShowInService f t → a .done [] u) ∧
          (OfferedToAll 0x15 f s t → t.sect.state ≠ .service → Completes (.nudge f) s u)) ∧
        (∀ tick time p at_ u, x.anchor = .set tick time p →
          x.ring.unplayed.head?.map Event.tick = some at_ ∨ (x.ring.unplayed = [] ∧ x.ring.lastTick = some at_) →
          u = updSlot k (fun y =>
            { y with
              anchor := .set at_ (time + (((at_ : Int) - tick) * p).tdiv 240) (nudged p)
              timing := { y.timing with tempo := nudged p } }) t →
          (Offered 0x15 f s t → ¬ FromShowInService f t → a .done [] u) ∧
          (OfferedToAll 0x15 f s t → t.sect.state ≠ .service → Completes (.nudge f) s u))))

/-! ### Cue arbiter -/

/-- START: refused out of range, in HUSHING, HALTED and SERVICE, and for a slot that is not LOADED; a slot whose
priority exceeds the effective mask starts, preempting any occupant; any other waits (02 R29 to R33). -/
def Obligations.Start : Prop :=
  ∀ (f : Frame) (s t : State) (slot : Byte), Offered 0x20 f s t → ¬ FromShowInService f t → f.fields = [slot] →
    let a := Answers 0x20 (.start f) f s
    (3 < slot.toNat → a .range [] t) ∧
    ∀ k : SlotId, slot.toNat = k.val →
      let waits : State :=
        { updSlot k (fun x => { x with state := .waiting, waitingOrder := some (t.arb.startSequence + 1) }) t with
          arb := { t.arb with
            startSequence := t.arb.startSequence + 1
            waiting := t.arb.waiting ++ [{ slot := k, sequence := t.arb.startSequence + 1 }] } }
      (t.sect.state = .hushing ∨ t.sect.state = .halted ∨ t.sect.state = .service ∨
        t.cue.slots[k].state ≠ .loaded → a .state [] t) ∧
      (t.sect.state ≠ .hushing → t.sect.state ≠ .halted → t.sect.state ≠ .service →
        t.cue.slots[k].state = .loaded →
        (RoleFree t → Exceeds k t.arb.baseMask t → ∃ u, Starts k t u ∧ a .done [3] u) ∧
        (RoleFree t → ¬ Exceeds k t.arb.baseMask t → a .done [2] waits) ∧
        (∀ j, HoldsRoleAlone j t → ¬ Exceeds k t.cue.slots[j].priority t → a .done [2] waits) ∧
        (∀ j, HoldsRoleAlone j t → Exceeds k t.cue.slots[j].priority t →
          (t.cue.slots[j].state = .paused → t.cue.slots[j].pause ≠ none) →
          ∃ v u, Preempts j t v ∧ Starts k v u ∧ a .done [3] u))

/-- PAUSE of the SOUNDING slot and CONTINUE of the PAUSED one, and their refusals (02 R38, R40). -/
def Obligations.PauseAndContinue : Prop :=
  (∀ (f : Frame) (s t : State), Offered 0x21 f s t → ¬ FromShowInService f t → f.fields = [] →
      (t.sect.state ≠ .playing → Answers 0x21 (.pause f) f s .state [] t) ∧
      (∀ k : SlotId, t.sect.state = .playing → t.cue.slots[k].state = .sounding →
        (∀ j : SlotId, t.cue.slots[j].state = .sounding → j = k) →
        ∃ w, Withdraws k t w ∧
          let p := freezeOf t.now (actingPlaces k t) t.cue.slots[k]
          let x := if p.point = .entry then t.cue.slots[k].rewind p.freezeTick else t.cue.slots[k]
          Answers 0x21 (.pause f) f s .done []
            { updSlot k (fun _ =>
                { x with state := .paused, anchor := .pending x.timing.tempo, pause := some p }) w with
              sect := { t.sect with state := .paused } })) ∧
  (∀ (f : Frame) (s t : State), Offered 0x22 f s t → ¬ FromShowInService f t → f.fields = [] →
      (t.sect.state ≠ .paused → Answers 0x22 (.continueCue f) f s .state [] t) ∧
      (∀ (k : SlotId) (p : PauseRecord), t.sect.state = .paused → t.cue.slots[k].state = .paused →
        (∀ j : SlotId, t.cue.slots[j].state = .paused → j = k) → t.cue.slots[k].pause = some p →
        let x := t.cue.slots[k]
        let anchor : Anchor := match x.ring.unplayed with
          | [] => .pending x.timing.tempo
          | e :: _ =>
            .set (if p.point = .entry then p.freezeTick else e.tick)
              (t.now + t.cue.syncOffset + (x.leadInMs : Int) * 1000) x.timing.tempo
        Answers 0x22 (.continueCue f) f s .done []
          { updSlot k (fun y => { y with state := .sounding, pause := none, anchor := anchor }) t with
            sect := { t.sect with state := .playing }
            fault := withLow x t.fault }))

/-- DROP CUE, by the slot's state (02 R41, Table 2.5.1). -/
def Obligations.DropCue : Prop :=
  ∀ (f : Frame) (s t : State) (slot : Byte), Offered 0x23 f s t → ¬ FromShowInService f t → f.fields = [slot] →
    let a := Answers 0x23 (.dropCue f) f s
    (3 < slot.toNat → a .range [] t) ∧
    ∀ k : SlotId, slot.toNat = k.val →
      (t.cue.slots[k].state = .empty → a .done [] t) ∧
      (t.cue.slots[k].state = .loaded → ∃ u, Empties k t u ∧ a .done [] u) ∧
      (t.cue.slots[k].state = .waiting →
        ∃ u, Empties k { t with arb := { t.arb with waiting := t.arb.waiting.filter fun w => w.slot != k } } u ∧
          a .done [] u) ∧
      (t.cue.slots[k].state = .suspended →
        ∃ u, Empties k { t with arb := { t.arb with stack := t.arb.stack.filter fun r => r.slot != k } } u ∧
          a .done [] u) ∧
      (t.cue.slots[k].state = .sounding ∨ t.cue.slots[k].state = .paused →
        ∃ v u, Empties k t v ∧ HandsOn v u ∧ a .done [] u)

/-- Freeze, rewind and release (02 R34, 01 R6, R23). The freeze point is the first entry that has not sounded, or the
tail, or none. A rewind moves the commit cursor back to the first retained entry at or above the target: the commit
state takes the values before that entry, and every entry passed loses its annotation. A release drops the entries
below the floor of the oldest unsounded entry from the front of the ring. The entries whose firings a PAUSE or a
preemption withdraws are those of the slot's HOLD, ROTOR, MARK and END firings in the list (04 R66, R82). -/
def Obligations.FreezeRewindAndRelease : Prop :=
  (∀ (s : State) (k : SlotId) (place : BitVec 8),
    place ∈ actingPlaces k s ↔
      ∃ f ∈ s.sched.fireList, ∃ e : EntryRef, e.slot = k ∧ e.place = place ∧
        ((∃ h on, f.kind = .hold e h on) ∨ (∃ m target, f.kind = .rotor e m target) ∨
          (∃ n, f.kind = .mark e n) ∨ f.kind = .ending e)) ∧
  ∀ (now : Time) (withdrawn : List (BitVec 8)) (target : Nat) (x : Slot),
    let r := x.ring
    let pick (tick beat bar : Nat) : Nat := match x.rewindMode with
      | .exactMode => tick
      | .beatMode => beat
      | .barMode => bar
    let floorOf (c : Committed) : Nat := pick c.event.tick c.note.beatStart c.note.barStart
    let headFloor (e : Event) : Nat :=
      let bar := 240 * x.timing.beatsPerBar
      pick e.tick (x.timing.barOrigin + (e.tick - x.timing.barOrigin) / 240 * 240)
        (x.timing.barOrigin + (e.tick - x.timing.barOrigin) / bar * bar)
    let sounded (gone : List (BitVec 8)) (i : Nat) (c : Committed) : Prop :=
      c.note.due ≤ now ∧ r.release + BitVec.ofNat 8 i ∉ gone
    let first (gone : List (BitVec 8)) (front : List Committed) (c : Committed) (behind : List Committed) : Prop :=
      r.retained = front ++ c :: behind ∧ (∀ (i : Nat) (h : i < front.length), sounded gone i front[i]) ∧
        ¬ sounded gone front.length c
    let allSounded (gone : List (BitVec 8)) : Prop :=
      ∀ (i : Nat) (h : i < r.retained.length), sounded gone i r.retained[i]
    (∀ front c behind, first withdrawn front c behind →
      freezeOf now withdrawn x =
        { point := .entry, freezeTick := c.event.tick, resumeTick := some (floorOf c) }) ∧
    (allSounded withdrawn →
      (∀ e rest, r.unplayed = e :: rest →
        freezeOf now withdrawn x =
          { point := .entry, freezeTick := e.tick, resumeTick := some (headFloor e) }) ∧
      (∀ c, r.unplayed = [] → r.retained.getLast? = some c →
        freezeOf now withdrawn x =
          { point := .tail, freezeTick := c.event.tick, resumeTick := some (floorOf c) }) ∧
      (r.unplayed = [] → r.retained = [] →
        freezeOf now withdrawn x = { point := .none, freezeTick := 0, resumeTick := none })) ∧
    ((∀ c ∈ r.retained, c.event.tick < target) → x.rewind target = x) ∧
    (∀ front c behind, r.retained = front ++ c :: behind → (∀ d ∈ front, d.event.tick < target) →
      target ≤ c.event.tick →
      x.rewind target =
        { x with
          timing := c.note.before
          ring := { r with
            retained := front
            unplayed := c.event :: behind.map (fun d => d.event) ++ r.unplayed } }) ∧
    (∀ (floor : Nat) (gone kept : List Committed), r.retained = gone ++ kept →
      (∀ d ∈ gone, d.event.tick < floor) → (∀ d, kept.head? = some d → floor ≤ d.event.tick) →
      ((∃ front c behind, first [] front c behind ∧ floor = floorOf c) ∨
        (allSounded [] ∧ ∃ e rest, r.unplayed = e :: rest ∧ floor = headFloor e) ∨
        (allSounded [] ∧ r.unplayed = [] ∧ ∃ c, r.retained.getLast? = some c ∧ floor = floorOf c)) →
      x.releaseEntries now =
        { x with ring := { r with
            release := r.release + BitVec.ofNat 8 gone.length
            retained := kept } })

/-- SET MASK: the base mask takes the value, and in QUIET the best waiting cue is judged against it (02 R43). SET
TRANSPOSE and SET DYNAMICS: the slot record takes the value, and the context record of a SUSPENDED slot with it (02
R44, R45). -/
def Obligations.MaskTransposeAndDynamics : Prop :=
  (∀ (f : Frame) (s t : State) (mask : Byte), Offered 0x24 f s t → ¬ FromShowInService f t → f.fields = [mask] →
      let a := Answers 0x24 (.setMask f) f s
      let v : State := { t with arb := { t.arb with baseMask := mask.toNat } }
      (7 < mask.toNat → a .range [] t) ∧
      (mask.toNat ≤ 7 → t.sect.state ≠ .quiet → a .done [] v) ∧
      (mask.toNat ≤ 7 → t.sect.state = .quiet → ∃ u, Judged v u ∧ a .done [] u)) ∧
  (∀ (f : Frame) (s t : State) (slot value : Byte), ¬ FromShowInService f t → f.fields = [slot, value] →
      let changed (k : SlotId) (g : Slot → Slot) (h : ContextRecord → ContextRecord) : State :=
        if t.cue.slots[k].state = .suspended then
          { updSlot k g t with
            arb := { t.arb with stack := t.arb.stack.map fun r => if r.slot = k then h r else r } }
        else updSlot k g t
      (Offered 0x25 f s t →
        (3 < slot.toNat ∨ value.toInt < -24 ∨ 24 < value.toInt →
          Answers 0x25 (.setTranspose f) f s .range [] t) ∧
        ∀ k : SlotId, slot.toNat = k.val → -24 ≤ value.toInt → value.toInt ≤ 24 →
          (t.cue.slots[k].state = .empty → Answers 0x25 (.setTranspose f) f s .state [] t) ∧
          (t.cue.slots[k].state ≠ .empty →
            Answers 0x25 (.setTranspose f) f s .done []
              (changed k (fun x => { x with transposition := value.toInt })
                (fun r => { r with transposition := value.toInt })))) ∧
      (Offered 0x26 f s t →
        (3 < slot.toNat ∨ value.toNat < 25 ∨ 200 < value.toNat → Answers 0x26 (.setDynamics f) f s .range [] t) ∧
        ∀ k : SlotId, slot.toNat = k.val → 25 ≤ value.toNat → value.toNat ≤ 200 →
          (t.cue.slots[k].state = .empty → Answers 0x26 (.setDynamics f) f s .state [] t) ∧
          (t.cue.slots[k].state ≠ .empty →
            Answers 0x26 (.setDynamics f) f s .done []
              (changed k (fun x => { x with dynamics := value.toNat })
                (fun r => { r with dynamics := value.toNat })))))

/-! ### Reading -/

/-- READ CUE, READ STACK and READ STATE change nothing and answer the records of the slot, the entry, the arbiter, the
context record and the section, in the layouts of 10 Tables 10.2.3, 10.3.1, 10.3.2 and 10.3.5 (01 R12, 02 R46, 07 R145,
10 R182, R183), with the codes of Table 10.1.1 and the encodings of R180, where a time that does not fit its field is a free
value (log 7). An entry with no annotation sends 0 and FFh in its place (the model's reading, log 25). They are
answered in SERVICE on either link. -/
def Obligations.ReadCueStackAndState : Prop :=
  EncodesNumbers ∧
  [SlotState.empty, .loaded, .waiting, .sounding, .paused, .suspended].map SlotState.code = [0, 1, 2, 3, 4, 5] ∧
  [RewindMode.exactMode, .beatMode, .barMode].map RewindMode.code = [0, 1, 2] ∧
  [FreezePoint.entry, .tail, .none].map FreezePoint.code = [0, 1, 2] ∧
  [CommitOutcome.fired, .applied, .skippedUnmapped, .skippedLate, .skippedBusy].map CommitOutcome.code =
    [0, 1, 2, 3, 4] ∧
  [SectionState.quiet, .playing, .paused, .hushing, .service, .halted].map SectionState.code = [0, 1, 2, 3, 4, 5] ∧
  [HushTarget.quiet, .service].map HushTarget.code = [0, 1] ∧
  [Takeover.none, .claiming, .held].map Takeover.code = [0, 1, 2] ∧
  ∀ (f : Frame) (s t : State),
    let timing (c : CommitState) : List Byte := be24 c.tempo ++ be32 c.barOrigin ++ [byteOf c.beatsPerBar]
    (∀ slot : Byte, Offered 0x12 f s t → f.fields = [slot] →
      (3 < slot.toNat → Answers 0x12 (.readCue f) f s .range [] t) ∧
      (∀ k : SlotId, slot.toNat = k.val →
        let x := t.cue.slots[k]
        let ticks := ringTicks x.ring
        let commitTick := x.ring.unplayed.head?.map Event.tick
        let anchor : Bool × List Byte := match x.anchor with
          | .set tick time tempo => (true, be32 tick ++ signed48 time ++ be24 tempo)
          | .pending tempo => (false, be32 0 ++ signed48 0 ++ be24 tempo)
        Answers 0x12 (.readCue f) f s .done
          ([x.state.code, byteOf x.priority, x.rewindMode.code] ++ be16 x.leadInMs ++
            [byteOf x.lowWater, signedByte x.transposition, byteOf x.dynamics] ++
            be16 (x.ring.retained.length + x.ring.unplayed.length) ++ be16 x.ring.unplayed.length ++
            [boolByte x.ring.closed,
              flagByte [anchor.1, ticks.head?.isSome, commitTick.isSome, ticks.getLast?.isSome]] ++
            anchor.2 ++ timing x.timing ++
            be32 (ticks.head?.getD 0) ++ be32 (commitTick.getD 0) ++ be32 (ticks.getLast?.getD 0)) t)) ∧
    (∀ slot index : Byte, Offered 0x12 f s t → f.fields = [slot, index] →
      (3 < slot.toNat → Answers 0x12 (.readCue f) f s .range [] t) ∧
      (∀ k : SlotId, slot.toNat = k.val →
        let r := t.cue.slots[k].ring
        (r.retained.length + r.unplayed.length ≤ index.toNat → Answers 0x12 (.readCue f) f s .range [] t) ∧
        (∀ c, r.retained[index.toNat]? = some c →
          Answers 0x12 (.readCue f) f s .done
            ([index] ++ recordOf c.event ++ [1] ++ partTime48 c.note.due ++ be32 c.note.beatStart ++
              be32 c.note.barStart ++ timing c.note.before ++ [c.note.outcome.code]) t) ∧
        (∀ e, r.retained.length ≤ index.toNat → r.unplayed[index.toNat - r.retained.length]? = some e →
          Answers 0x12 (.readCue f) f s .done
            ([index] ++ recordOf e ++ [0] ++ List.replicate 21 0 ++ [0xFF, 0xFF]) t))) ∧
    (Offered 0x27 f s t → f.fields = [] →
      let a := Answers 0x27 (.readStack f) f s .done
      let lists : List Byte :=
        [byteOf t.arb.stack.length, byteOf t.arb.waiting.length] ++
          (t.arb.waiting.flatMap fun w =>
            [finByte w.slot, byteOf t.cue.slots[w.slot].priority] ++ be32 w.sequence.toNat) ++
          be32 t.arb.startSequence.toNat
      (RoleFree t →
        a ([byteOf t.arb.baseMask, byteOf t.arb.baseMask, 0xFF, 0xFF, 0xFF] ++ be32 0 ++ be32 0 ++ lists) t) ∧
      (∀ k, HoldsRoleAlone k t →
        let x := t.cue.slots[k]
        let holder : List Byte := [byteOf t.arb.baseMask, byteOf x.priority, finByte k, x.state.code]
        (x.state = .sounding → a (holder ++ [0xFF] ++ be32 0 ++ be32 0 ++ lists) t) ∧
        (∀ p, x.state = .paused → x.pause = some p →
          a (holder ++ [p.point.code] ++ be32 p.freezeTick ++ be32 (p.resumeTick.getD 0) ++ lists) t))) ∧
    (∀ position : Byte, Offered 0x27 f s t → f.fields = [position] →
      (2 < position.toNat → Answers 0x27 (.readStack f) f s .range [] t) ∧
      (position.toNat ≤ 2 → t.arb.stack[position.toNat]? = none →
        Answers 0x27 (.readStack f) f s .done [byteOf t.arb.stack.length, position] t) ∧
      (∀ r, position.toNat ≤ 2 → t.arb.stack[position.toNat]? = some r →
        Answers 0x27 (.readStack f) f s .done
          ([byteOf t.arb.stack.length, position] ++
            [finByte r.slot, r.freeze.point.code] ++ be32 r.freeze.freezeTick ++ be32 (r.freeze.resumeTick.getD 0) ++
            timing r.timing ++ [signedByte r.transposition, byteOf r.dynamics, flagByte r.holds.toList] ++
            [byteOf r.rotorTargets[0], byteOf r.rotorTargets[1], byteOf r.savedMask]) t)) ∧
    (Offered 0x70 f s t → f.fields = [] →
      Answers 0x70 (.readState f) f s .done
        ([t.sect.state.code, if t.sect.state = .hushing then t.sect.hushTarget.code else 0xFF,
          boolByte t.sect.haltPending, t.sect.takeover.code, boolByte t.sect.breakHush,
          boolByte (t.sect.silenceTimer ≠ none)] ++ partTime48 (t.sect.silenceTimer.getD 0) ++
          [t.cue.slots[0].state.code, t.cue.slots[1].state.code, t.cue.slots[2].state.code,
            t.cue.slots[3].state.code, byteOf t.sched.fireList.length,
            flagByte [t.rail.rails[0].near, t.rail.rails[0].latch, t.rail.rails[1].near, t.rail.rails[1].latch,
              t.rail.rails[2].near, t.rail.rails[2].latch, t.rail.rails[3].near, t.rail.rails[3].latch]] ++
          partTime48 t.partTime ++ signed48 (t.partTime + t.cue.syncOffset)) t)

/-- READ WINDOW, READ GROUP, READ CURVE and SET LANES without a map change nothing and answer the record (03 R52, R56,
R60, R61), with the codes of 10 Table 10.1.1. That READ WINDOW of a pitch whose group has no members sends the member
count 0 is the model's reading (log 25). -/
def Obligations.ReadPitchMap : Prop :=
  EncodesNumbers ∧ [BusyPolicy.delay, .drop].map BusyPolicy.code = [0, 1] ∧
  ∀ (f : Frame) (s t : State),
    (∀ form value : Byte, Offered 0x31 f s t → f.fields = [form, value] →
      (1 < form.toNat ∨ (form = 0 ∧ 7 < value.toNat) ∨ (form = 1 ∧ 127 < value.toNat) →
        Answers 0x31 (.readWindow f) f s .range [] t) ∧
      (∀ i : WindowId, form = 0 → value.toNat = i.val →
        let w := t.pitch.windows[i]
        Answers 0x31 (.readWindow f) f s .done
          [boolByte w.enabled, byteOf w.firstPitch, byteOf w.count, byteOf w.firstGroup] t) ∧
      (form = 1 → value.toNat ≤ 127 →
        (translate t.pitch value.toNat = .noWindow →
          Answers 0x31 (.readWindow f) f s .done [1, 0xFF, 0xFF, 0xFF] t) ∧
        (∀ i g, translate t.pitch value.toNat = .noMembers i g →
          Answers 0x31 (.readWindow f) f s .done [2, finByte i, finByte g, 0] t) ∧
        (∀ i g, translate t.pitch value.toNat = .mapped i g →
          Answers 0x31 (.readWindow f) f s .done
            [0, finByte i, finByte g, byteOf t.pitch.groups[g].members.length] t))) ∧
    (∀ group : Byte, Offered 0x33 f s t → f.fields = [group] →
      (47 < group.toNat → Answers 0x33 (.readGroup f) f s .range [] t) ∧
      (∀ g : GroupId, group.toNat = g.val →
        let x := t.pitch.groups[g]
        Answers 0x33 (.readGroup f) f s .done
          ([finByte x.curve, x.policy.code, byteOf x.delayLimitMs, byteOf x.members.length] ++
            x.members.flatMap fun c => [finByte c, boolByte t.drive.strikes[c].fenced]) t)) ∧
    (∀ curve : Byte, Offered 0x35 f s t → f.fields = [curve] →
      (7 < curve.toNat → Answers 0x35 (.readCurve f) f s .range [] t) ∧
      (∀ i : CurveId, curve.toNat = i.val →
        Answers 0x35 (.readCurve f) f s .done
          (t.pitch.curves[i].toList.flatMap fun p => be16 p.width ++ be16 p.flight) t)) ∧
    (∀ curve velocity : Byte, Offered 0x35 f s t → f.fields = [curve, velocity] →
      (7 < curve.toNat ∨ velocity.toNat = 0 ∨ 127 < velocity.toNat →
        Answers 0x35 (.readCurve f) f s .range [] t) ∧
      (∀ i : CurveId, curve.toNat = i.val → 1 ≤ velocity.toNat → velocity.toNat ≤ 127 →
        Answers 0x35 (.readCurve f) f s .done
          ((t.pitch.curves[i].toList.flatMap fun p => be16 p.width ++ be16 p.flight) ++
            be16 (widthAt t.pitch.curves[i] velocity.toNat) ++ be16 (flightAt t.pitch.curves[i] velocity.toNat))
          t)) ∧
    (Offered 0x36 f s t → f.fields = [] →
      Answers 0x36 (.setLanes f) f s .done (t.pitch.lanes.toList.map finByte) t)

/-- READ FIRE LIST, READ PHASES, READ RAIL and READ CHANNEL answer the records in the layouts of 10 Table 10.3.5 and
10 R185; only the clear option of READ FIRE LIST changes anything, and it zeroes the statistics after they are read
(04 R87, R88, 05 R95, R103, 06 R120). Codes and numbers are those of 10 Table 10.1.1 and R180, a time that does not
fit its field a free value (log 7). The model's own: an absent last mark sends FFh and 0 (log 25), the state byte of
a listed firing is a free value (log 19), and so is the phase index before the first phase (log 8); READ PHASES sends
no count before its entries (log 28). -/
def Obligations.ReadSchedulerRailsAndDrive : Prop :=
  EncodesNumbers ∧
  (∀ r : RailId, phaseCode (some r) = finByte r) ∧ phaseCode none = 4 ∧
  (∀ x : PhaseTable, [PendingTable.empty, .loading x, .committed x].map PendingTable.code = [0, 1, 2]) ∧
  [SenseResult.none, .opened, .shorted].map SenseResult.code = [0, 1, 2] ∧
  ∀ (f : Frame) (s t : State),
    (∀ form value : Byte, Offered 0x40 f s t → f.fields = [form, value] →
      let a := Answers 0x40 (.readFireList f) f s
      let stats := t.sched.stats
      let statistics : List Byte :=
        [byteOf t.sched.fireList.length, byteOf (t.sched.fireList.countP fun g => g.state != .waiting)] ++
          be16 stats.lateBegins ++ be32 stats.maxLateness ++ be16 stats.skippedUnmapped ++ be16 stats.skippedLate ++
          be16 stats.skippedBusy ++ be16 stats.expired ++
          [byteOf t.sched.lateLimitsMs[0], byteOf t.sched.lateLimitsMs[1]] ++
          (match t.sched.lastMark with
            | some m => [1, finByte m.slot, byteOf m.number] ++ signed48 m.showTime
            | none => [0, 0xFF, 0xFF] ++ signed48 0) ++
          be32 t.sched.placementCounter.toNat
      let shot (sh : Shot) (group : Nat) : List Byte :=
        [finByte sh.channel, byteOf (sh.rail.val * 64 + group), byteOf (sh.lane.val * 128 + sh.velocity)] ++
          be16 sh.width
      let byKind (g : Firing) : Byte × Byte × List Byte := match g.kind with
        | .strike e _ group sh => (1, finByte e.slot, shot sh group.val)
        | .test sh => (2, 4, shot sh 63)
        | .hold e h on => (3, finByte e.slot, [finByte h, boolByte on, 0, 0, 0])
        | .rotor e m target => (4, finByte e.slot, [finByte m, byteOf target, 0, 0, 0])
        | .mark e n => (5, finByte e.slot, [byteOf n, 0, 0, 0, 0])
        | .ending e => (6, finByte e.slot, [0, 0, 0, 0, 0])
      let byState (g : Firing) : Byte × Nat := match g.state with
        | .waiting => (Config.firingStateCode false, 0)
        | .railWait expiry => (Config.firingStateCode true, (expiry - g.fireTime).toNat)
      let listed (g : Firing) : List Byte :=
        be16 g.number.toNat ++ [(byKind g).1, (byState g).1, (byKind g).2.1] ++ partTime48 g.fireTime ++
          be16 (byState g).2 ++ (byKind g).2.2
      (1 < form.toNat ∨ (form = 0 ∧ 1 < value.toNat) ∨ (form = 1 ∧ 63 < value.toNat) → a .range [] t) ∧
      (form = 0 → value = 0 → a .done statistics t) ∧
      (form = 0 → value = 1 →
        a .done statistics
          { t with sched := { t.sched with stats :=
              { lateBegins := 0, maxLateness := 0, skippedUnmapped := 0, skippedLate := 0, skippedBusy := 0,
                expired := 0 } } }) ∧
      (form = 1 → value.toNat ≤ 63 →
        let shown := (t.sched.fireList.drop value.toNat).take 3
        a .done ([byteOf t.sched.fireList.length, byteOf shown.length] ++ shown.flatMap listed) t)) ∧
    (∀ choice offset count : Byte, Offered 0x52 f s t → f.fields = [choice, offset, count] →
      let a := Answers 0x52 (.readPhases f) f s
      let inRange : Prop :=
        choice.toNat ≤ 1 ∧ offset.toNat ≤ 63 ∧ 1 ≤ count.toNat ∧ count.toNat ≤ 32 ∧ offset.toNat + count.toNat ≤ 64
      let entries (x : PhaseTable) : List Byte := ((x.toList.drop offset.toNat).take count.toNat).map phaseCode
      let index : Byte := match t.rail.lastPhaseStart with
        | some begun => byteOf (begun / 250 % 64)
        | none => Config.phaseIndexBeforeFirst
      (¬ inRange → a .range [] t) ∧
      (inRange → choice = 0 →
        a .done ([t.rail.pendingTable.code, index] ++ entries t.rail.table) t) ∧
      (inRange → choice = 1 → t.rail.pendingTable = .empty → a .done [0, index] t) ∧
      (∀ x, inRange → choice = 1 → t.rail.pendingTable = .loading x →
        a .done ([1, index] ++ entries x) t) ∧
      (∀ x, inRange → choice = 1 → t.rail.pendingTable = .committed x →
        a .done ([2, index] ++ entries x) t)) ∧
    (∀ rail : Byte, Offered 0x54 f s t → f.fields = [rail] →
      (3 < rail.toNat → Answers 0x54 (.readRail f) f s .range [] t) ∧
      (∀ r : RailId, rail.toNat = r.val →
        let x := t.rail.rails[r]
        Answers 0x54 (.readRail f) f s .done
          (be16 x.limit ++ be16 x.drain ++ be16 x.accumulator ++
            be16 (if x.latch = true then x.limit / 2 else x.limit) ++ be16 x.standingLoad ++
            [flagByte [x.near, x.latch],
              byteOf (t.sched.fireList.countP fun g => g.state != .waiting && g.kind.shot?.map Shot.rail == some r),
              byteOf (t.rail.table.toList.countP fun e => e == some r)]) t)) ∧
    (∀ which : Byte, Offered 0x61 f s t → f.fields = [which] →
      let a := Answers 0x61 (.readChannel f) f s
      (101 < which.toNat → a .range [] t) ∧
      (∀ c : ChannelId, which.toNat = c.val →
        let x := t.drive.strikes[c]
        let pulse (p : Pulse) : List Byte :=
          be16 p.width ++ [match p.source with | .slot k => finByte k | .test => 4] ++ partTime48 p.fireTime
        let noPulse : List Byte := be16 0 ++ [0xFF] ++ partTime48 0
        let driven : Bool × Byte × List Byte := match x.state with
          | .idle => (false, 0, noPulse ++ partTime48 0 ++ partTime48 0)
          | .driving p => (true, 1, pulse p.pulse ++ partTime48 p.beginTime ++ partTime48 p.endTime)
          | .recover => (false, 2, noPulse ++ partTime48 0 ++ partTime48 0)
        let planned (waits : Bool) (g : Firing) : Bool :=
          (g.state != .waiting) == waits && (g.kind.shot?.map Shot.channel == some c)
        a .done
          ([finByte x.rail, byteOf x.currentClass, byteOf x.recoveryMs, driven.2.1,
              flagByte [driven.1, x.nextPulse.isSome, x.lastPulseEnd.isSome, x.fenced],
              match x.group with | some g => finByte g | none => 0xFF] ++
            driven.2.2 ++ (match x.nextPulse with | some p => pulse p | none => noPulse) ++
            partTime48 (x.lastPulseEnd.getD 0) ++ partTime48 x.readyTime ++ [x.lastSense.code] ++
            be16 x.pulseCount.toNat ++
            [byteOf (t.sched.fireList.countP (planned false)), byteOf (t.sched.fireList.countP (planned true))]) t) ∧
      (∀ h : HoldId, which.toNat = 96 + h.val →
        let x := t.drive.holds[h]
        a .done ([finByte x.rail] ++ be16 x.load ++ [boolByte x.on]) t) ∧
      (∀ m : RotorId, which.toNat = 100 + m.val →
        let x := t.drive.rotors[m]
        a .done
          ([finByte x.rail] ++ be16 x.load ++
            [byteOf x.rampStep, byteOf x.target, byteOf x.current, flagByte [x.hushRamp, x.timer.isSome]] ++
            partTime48 (x.timer.getD 0)) t))

/-- READ FAULTS, READ CAPTURE, READ COUNTS and READ ATTENTION answer the monitor's records, a capture with the detail
bytes of its kind group (08 R154, R159, R162, 10 R184, R185, Table 10.3.4); only the clear option of READ COUNTS
changes anything, and it zeroes the counts after they are read. Kinds and flags have the numbers of 08 Tables 8.1.1 and
8.4.1, coded values the codes of 10 Table 10.1.1, numbers the encodings of 10 R180, a time that does not fit its field
a free value (log 7). The attention line is asserted while a set flag has its
mask bit clear (08 R160). The body bytes of a link capture beyond its byte count are free values (the model's choice,
log 22). -/
def Obligations.ReadFaultMonitor : Prop :=
  EncodesNumbers ∧
  [Severity.advisory, .nonfatal, .fatal].map Severity.code = [0, 1, 2] ∧
  [ErrorKind.linkCheck, .linkFraming, .linkTruncated, .linkOverrun, .replyLost, .pitchUnmapped, .strikeLate,
    .strikeBusy, .railOverload, .driveOpen, .driveShort, .clockSlip, .pendantLost].map ErrorKind.number =
    List.finRange 13 ∧
  (∀ k : ErrorKind, (CaptureKind.error k).code = finByte k.number) ∧ CaptureKind.strapNotice.code = 0xFF ∧
  [Origin.link .showLink, .link .servicePort, .clock].map Origin.typeCode = [0, 1, 5] ∧
  [Origin.link .showLink, .link .servicePort, .clock].map Origin.number = [0, 0, 0] ∧
  (∀ k : SlotId, (Origin.cue k).typeCode = 2 ∧ (Origin.cue k).number = finByte k) ∧
  (∀ c : ChannelId, (Origin.channel c).typeCode = 3 ∧ (Origin.channel c).number = finByte c) ∧
  (∀ r : RailId, (Origin.rail r).typeCode = 4 ∧ (Origin.rail r).number = finByte r) ∧
  [AttentionFlag.fatal, .nonfatal, .advisory, .cueLow, .cueDone, .cueMark, .preempt, .hushDone, .takeover,
    .tableSwitched, .underrun, .restarted, .pendantCall 0, .pendantCall 1, .pendantCall 2, .pendantCall 3].map
    AttentionFlag.bit = (List.range 16).map (BitVec.twoPow 16) ∧
  ∀ (f : Frame) (s t : State),
    let set (p : KindRecord → Bool) : List Byte :=
      be16 ((t.fault.kinds.toList.map p).foldr (fun b n => b.toNat + 2 * n) 0)
    (Offered 0x80 f s t → f.fields = [] →
      Answers 0x80 (.readFaults f) f s .done
        (set KindRecord.status ++ set KindRecord.masked ++ t.fault.kinds.toList.map (fun k => k.severity.code) ++
          [boolByte t.fault.capture.isSome,
            boolByte (decide (∃ k : Fin 13, t.fault.kinds[k].masked = false ∧ t.fault.kinds[k].severity = .fatal ∧
              t.fault.kinds[k].status = true))]) t) ∧
    (Offered 0x84 f s t → f.fields = [] →
      (t.fault.capture = none → Answers 0x84 (.readCapture f) f s .done [0] t) ∧
      (∀ c, t.fault.capture = some c →
        let detail : List Byte := match c.detail with
          | .link address length bytes =>
            [flagByte [address.isSome, length.isSome], address.getD 0xFF, length.getD 0xFF, byteOf bytes.length] ++
              (bytes ++ (Config.meaninglessBodyBytes bytes).toList).take 6 ++ [0, 0, 0]
          | .strike note group channel lateness =>
            [flagByte [note.isSome, group.isSome, channel.isSome, lateness.isSome]] ++
              (match note with
                | some n => [finByte n.slot] ++ be32 n.tick ++ [byteOf n.pitch]
                | none => [0xFF] ++ be32 0 ++ [0xFF]) ++
              [match group with | some g => finByte g | none => 0xFF,
                match channel with | some k => finByte k | none => 0xFF] ++
              be32 (lateness.getD 0)
          | .drive channel width => [finByte channel] ++ be16 width ++ List.replicate 10 0
          | .rail accumulator limit => be16 accumulator ++ be16 limit ++ List.replicate 9 0
          | .clock difference offset => signed48 difference ++ signed48 offset ++ [0]
          | .nothing => List.replicate 13 0
        Answers 0x84 (.readCapture f) f s .done
          ([1, c.kind.code, c.severity.code] ++ partTime48 c.partTime ++ signed48 c.showTime ++
            [c.origin.typeCode, c.origin.number] ++ detail ++ [boolByte c.more] ++ be16 c.moreCount) t)) ∧
    (∀ clear : Byte, Offered 0x86 f s t → f.fields = [clear] →
      let counts := t.fault.kinds.toList.flatMap fun k => be16 k.count
      (1 < clear.toNat → Answers 0x86 (.readCounts f) f s .range [] t) ∧
      (clear = 0 → Answers 0x86 (.readCounts f) f s .done counts t) ∧
      (clear = 1 →
        ∃ u, Answers 0x86 (.readCounts f) f s .done counts u ∧
          (∀ k : Fin 13, u.fault.kinds[k] = { t.fault.kinds[k] with count := 0 }) ∧
          u = { t with fault := { t.fault with kinds := u.fault.kinds } })) ∧
    (Offered 0x87 f s t → f.fields = [] →
      Answers 0x87 (.readAttention f) f s .done
        (be16 t.fault.flags.toNat ++ be16 t.fault.mask.toNat ++
          [boolByte (decide (∃ n : Fin 16, t.fault.flags.getLsbD n.val = true ∧
            t.fault.mask.getLsbD n.val = false))]) t)

/-- READ EXCHANGE and WRITE EXCHANGE: checked in range; words are read, and written from the first onward, unless an
expected value is given that the first word does not hold (09 R178, R179). That no count stands before the words of a
reply is the model's reading (log 28). -/
def Obligations.ExchangeWords : Prop :=
  ∀ (f : Frame) (s t : State) (first count : Byte),
    let inRange : Prop :=
      first.toNat ≤ 7 ∧ 1 ≤ count.toNat ∧ count.toNat ≤ 8 ∧ first.toNat + count.toNat ≤ 8
    let data (v : Vector (BitVec 16) 8) : List Byte :=
      ((v.toList.drop first.toNat).take count.toNat).flatMap fun w => be16 w.toNat
    (Offered 0x90 f s t → f.fields = [first, count] →
      (¬ inRange → Answers 0x90 (.readExchange f) f s .range [] t) ∧
      (inRange → Answers 0x90 (.readExchange f) f s .done (data t.settings.exchange) t)) ∧
    (∀ values : List (BitVec 16), values.length = count.toNat → Offered 0x91 f s t →
      let a := Answers 0x91 (.writeExchange f) f s
      let bytes := values.flatMap fun w => be16 w.toNat
      let written (u : State) : Prop :=
        u = { t with settings := { t.settings with exchange := u.settings.exchange } } ∧
        ∀ i : Fin 8, u.settings.exchange[i] =
          if first.toNat ≤ i.val then values.getD (i.val - first.toNat) t.settings.exchange[i]
          else t.settings.exchange[i]
      (f.fields = first :: count :: bytes →
        (¬ inRange → a .range [] t) ∧
        (inRange → ∃ u, written u ∧ a .done bytes u)) ∧
      (∀ expected : BitVec 16, f.fields = first :: count :: bytes ++ be16 expected.toNat →
        (¬ inRange → a .range [] t) ∧
        (∀ i : Fin 8, inRange → first.toNat = i.val → t.settings.exchange[i] = expected →
          ∃ u, written u ∧ a .done bytes u) ∧
        (∀ i : Fin 8, inRange → first.toNat = i.val → t.settings.exchange[i] ≠ expected →
          a .conflict (be16 t.settings.exchange[i].toNat) t)))

/-! ### Pitch map -/

/-- Translation of a pitch (03 R51): the group of the one enabled window that holds it, or the reason it is
unmapped. -/
def Obligations.PitchTranslation : Prop :=
  ∀ (p : PitchMap) (q : Int),
    let holds (i : WindowId) : Prop :=
      p.windows[i].enabled = true ∧ (p.windows[i].firstPitch : Int) ≤ q ∧
        q < (p.windows[i].firstPitch : Int) + p.windows[i].count
    (q < 0 ∨ 127 < q → translate p q = .outOfRange) ∧
    (0 ≤ q → q ≤ 127 → (∀ i, ¬ holds i) → translate p q = .noWindow) ∧
    (∀ (i : WindowId) (g : GroupId), 0 ≤ q → q ≤ 127 → holds i → (∀ j, holds j → j = i) →
      (g.val : Int) = p.windows[i].firstGroup + (q - p.windows[i].firstPitch) →
      (p.groups[g].members = [] → translate p q = .noMembers i g) ∧
      (p.groups[g].members ≠ [] → translate p q = .mapped i g))

/-- The pulse width and the flight time of a curve at a velocity, on the straight line of its segment (03 R58). -/
def Obligations.CurveInterpolation : Prop :=
  ∀ (curve : Curve) (v : Nat), 1 ≤ v → v ≤ 127 →
    ∀ (lower upper : CurvePoint) (va vb : Nat),
      (v < 32 → lower = curve[0] ∧ upper = curve[1] ∧ va = 1 ∧ vb = 32) →
      (32 ≤ v → v < 64 → lower = curve[1] ∧ upper = curve[2] ∧ va = 32 ∧ vb = 64) →
      (64 ≤ v → v < 96 → lower = curve[2] ∧ upper = curve[3] ∧ va = 64 ∧ vb = 96) →
      (96 ≤ v → lower = curve[3] ∧ upper = curve[4] ∧ va = 96 ∧ vb = 127) →
      (widthAt curve v : Int) =
        lower.width + (((upper.width : Int) - lower.width) * ((v : Int) - va)).tdiv ((vb : Int) - va) ∧
      (flightAt curve v : Int) =
        lower.flight + (((upper.flight : Int) - lower.flight) * ((v : Int) - va)).tdiv ((vb : Int) - va)

/-- SET WINDOW: refused out of range and in a section state that does not accept it, and in conflict with the lowest
other enabled window on the same pitches; else the window takes the four fields (03 R48, R50). -/
def Obligations.SetWindow : Prop :=
  ∀ (f : Frame) (s t : State) (window enabled first count group : Byte),
    Offered 0x30 f s t → ¬ FromShowInService f t → f.fields = [window, enabled, first, count, group] →
    let a := Answers 0x30 (.setWindow f) f s
    let inRange : Prop :=
      window.toNat ≤ 7 ∧ enabled.toNat ≤ 1 ∧ first.toNat ≤ 127 ∧ 1 ≤ count.toNat ∧ count.toNat ≤ 128 ∧
      group.toNat ≤ 47 ∧ first.toNat + count.toNat ≤ 128 ∧ group.toNat + count.toNat ≤ 48
    (¬ inRange → a .range [] t) ∧
    (inRange → ¬ Configurable t → a .state [] t) ∧
    (∀ (i : WindowId) (e : Bool), inRange → Configurable t → window.toNat = i.val → enabled = boolByte e →
      let clash (j : WindowId) : Prop :=
        j ≠ i ∧ e = true ∧ t.pitch.windows[j].enabled = true ∧
        t.pitch.windows[j].firstPitch < first.toNat + count.toNat ∧
        first.toNat < t.pitch.windows[j].firstPitch + t.pitch.windows[j].count
      (∀ j, clash j → (∀ k, clash k → j ≤ k) → a .conflict [finByte j] t) ∧
      ((∀ j, ¬ clash j) →
        a .done []
          { t with pitch := { t.pitch with windows := upd t.pitch.windows i fun _ =>
              { enabled := e, firstPitch := first.toNat, count := count.toNat, firstGroup := group.toNat } } }))

/-- SET GROUP: refused out of range and in a section state that does not accept it, and in conflict at the first
channel listed that another group has; else the record is replaced and every channel's membership agrees with the new
list at once (03 R48, R54, R55). -/
def Obligations.SetGroup : Prop :=
  ∀ (f : Frame) (s t : State) (group curve policy limit count : Byte) (channels : List Byte),
    Offered 0x32 f s t → ¬ FromShowInService f t →
    f.fields = group :: curve :: policy :: limit :: count :: channels → channels.length = count.toNat →
    let a := Answers 0x32 (.setGroup f) f s
    let inRange : Prop :=
      group.toNat ≤ 47 ∧ curve.toNat ≤ 7 ∧ policy.toNat ≤ 1 ∧ limit.toNat ≤ 20 ∧ count.toNat ≤ 4 ∧
      (∀ c ∈ channels, c.toNat ≤ 95) ∧ channels.Nodup
    (¬ inRange → a .range [] t) ∧
    (inRange → ¬ Configurable t → a .state [] t) ∧
    (∀ (g : GroupId) (c : CurveId) (p : BusyPolicy) (ms : List ChannelId), inRange → Configurable t →
      group.toNat = g.val → curve.toNat = c.val → policy = p.code → channels = ms.map finByte →
      let elsewhere (x : ChannelId) (h : GroupId) : Prop := t.drive.strikes[x].group = some h ∧ h ≠ g
      (∀ front x behind h, ms = front ++ x :: behind → (∀ y ∈ front, ∀ k, ¬ elsewhere y k) → elsewhere x h →
        a .conflict [finByte x, finByte h] t) ∧
      ((∀ x ∈ ms, ∀ h, ¬ elsewhere x h) →
        ∃ u, a .done [] u ∧
          (∀ x : ChannelId, u.drive.strikes[x] =
            if x ∈ ms then { t.drive.strikes[x] with group := some g }
            else if x ∈ t.pitch.groups[g].members then { t.drive.strikes[x] with group := none }
            else t.drive.strikes[x]) ∧
          u = { t with
            pitch := { t.pitch with groups := upd t.pitch.groups g fun _ =>
              { members := ms, curve := c, policy := p, delayLimitMs := limit.toNat } }
            drive := { t.drive with strikes := u.drive.strikes } }))

/-- SET CURVE and SET LANES with a map (03 R48, R59, R61). -/
def Obligations.SetCurveAndLanes : Prop :=
  ∀ (f : Frame) (s t : State), ¬ FromShowInService f t →
    (∀ (curve : Byte) (points : Curve), Offered 0x34 f s t →
      (∀ p ∈ points.toList, p.width ≤ 65535 ∧ p.flight ≤ 65535) →
      f.fields = curve :: (points.toList.flatMap fun p => be16 p.width ++ be16 p.flight) →
      let a := Answers 0x34 (.setCurve f) f s
      let inRange : Prop :=
        curve.toNat ≤ 7 ∧
        ∀ p ∈ points.toList, 200 ≤ p.width ∧ p.width ≤ 8000 ∧ 2000 ≤ p.flight ∧ p.flight ≤ 40000
      (¬ inRange → a .range [] t) ∧
      (inRange → ¬ Configurable t → a .state [] t) ∧
      (∀ i : CurveId, inRange → Configurable t → curve.toNat = i.val →
        a .done [] { t with pitch := { t.pitch with curves := upd t.pitch.curves i fun _ => points } })) ∧
    (Offered 0x36 f s t → f.fields.length = 8 →
      let a := Answers 0x36 (.setLanes f) f s
      ((∃ b ∈ f.fields, 1 < b.toNat) ∨ f.fields.head? = some 1 → a .range [] t) ∧
      (∀ lanes : Vector Lane 8, f.fields = lanes.toList.map finByte → lanes[0] = 0 →
        a .done f.fields { t with pitch := { t.pitch with lanes := lanes } }))

/-! ### Commits and the fire list -/

/-- COMMIT of the head entry of the SOUNDING slot, for every kind but NOTE (01 R19, R21 to R24): a TEMPO anchors at
its own tick and due time, a METER sets bar origin and meter, and HOLD, ROTOR, MARK and END become firings at their
due time. A firing whose fire time is reached arrives in the same event (04 R73), in list order (R74, R78), after the
annotation, the release and the notices (the model's reading, log 11). With no SOUNDING slot, a pending anchor or
nothing unplayed, before the commit time, or while the entry needs a place and the list is full, the command commits
nothing and changes nothing (the model's choice, log 3). -/
def Obligations.Commit : Prop :=
  (∀ s : State,
    (∀ k : SlotId, s.cue.slots[k].state = .sounding →
      s.cue.slots[k].ring.unplayed = [] ∨ ∃ tempo, s.cue.slots[k].anchor = .pending tempo) →
    exec .commit s = .next s) ∧
  ∀ (s : State) (k : SlotId) (e : Event) (rest : List Event) (tick : Nat) (time : Time) (tempo : Nat),
    s.cue.slots[k].state = .sounding → (∀ j : SlotId, s.cue.slots[j].state = .sounding → j = k) →
    s.cue.slots[k].ring.unplayed = e :: rest → s.cue.slots[k].anchor = .set tick time tempo →
    let x := s.cue.slots[k]
    let due : Time := time + (((e.tick : Int) - tick) * tempo).tdiv 240
    let note (after : CommitState) (outcome : CommitOutcome) : Annotation :=
      let bar := 240 * after.beatsPerBar
      { due := due - s.cue.syncOffset
        beatStart := after.barOrigin + (e.tick - after.barOrigin) / 240 * 240
        barStart := after.barOrigin + (e.tick - after.barOrigin) / bar * bar
        before := x.timing, outcome := outcome }
    let timed : Prop := due - (s.cue.horizonMs : Int) * 1000 ≤ (s.partTime : Int) + s.cue.syncOffset
    let ref : EntryRef :=
      { slot := k, place := x.ring.release + BitVec.ofNat 8 x.ring.retained.length, tick := e.tick }
    let acting (kind : FiringKind) : Prop :=
      (∃ h on, e.data = .hold h on ∧ kind = .hold ref h on) ∨
      (∃ m target, e.data = .rotor m target ∧ kind = .rotor ref m target) ∨
      (∃ n, e.data = .mark n ∧ kind = .mark ref n) ∨ (e.data = .ending ∧ kind = .ending ref)
    (∀ p, e.data = .tempo p → timed →
      ∃ u, Completes .commit s u ∧
        Passes k e rest (note { x.timing with tempo := p } .applied)
          (updSlot k (fun y =>
            { y with anchor := .set e.tick due p, timing := { y.timing with tempo := p } }) s) u) ∧
    (∀ m, e.data = .meter m → timed →
      ∃ u, Completes .commit s u ∧
        Passes k e rest (note { x.timing with barOrigin := e.tick, beatsPerBar := m } .applied)
          (updSlot k (fun y =>
            { y with timing := { y.timing with barOrigin := e.tick, beatsPerBar := m } }) s) u) ∧
    (∀ kind, acting kind → timed → s.sched.fireList.length < 64 →
      ∃ v u, Places (due - s.cue.syncOffset) kind s v ∧ Passes k e rest (note x.timing .fired) v u ∧
        ((s.partTime : Int) < due - s.cue.syncOffset → Completes .commit s u) ∧
        (due - s.cue.syncOffset ≤ (s.partTime : Int) →
          ∃ w, Completes .commit s w ∧
            ArrivesInListOrder { number := s.sched.placementCounter + 1, fireTime := due - s.cue.syncOffset,
                                 state := .waiting, kind := kind } u w)) ∧
    ((∀ pitch velocity cls, e.data ≠ .note pitch velocity cls) → ¬ timed → exec .commit s = .next s) ∧
    (∀ kind, acting kind → 64 ≤ s.sched.fireList.length → exec .commit s = .next s)

/-- COMMIT of a NOTE (01 R20, 03 R63, 04 R68, R72, R73): unmapped it is skipped with PITCH_UNMAPPED; mapped it commits
early by the flight time of its effective velocity, and is skipped late with STRIKE_LATE, placed as a STRIKE firing for
the member chosen (`Obligations.MemberChoice`), or skipped busy with STRIKE_BUSY. A firing whose fire time is reached
arrives in the same event, in list order (04 R74), after the annotation, the release and the notices (the model's
reading, log 11). Before the commit time, or with the list full, the command changes nothing (the model's choice, log
3). -/
def Obligations.CommitOfNote : Prop :=
  ∀ (s : State) (k : SlotId) (e : Event) (rest : List Event) (tick : Nat) (time : Time) (tempo : Nat)
      (pitch velocity : Nat) (cls : Fin 8),
    s.cue.slots[k].state = .sounding → (∀ j : SlotId, s.cue.slots[j].state = .sounding → j = k) →
    s.cue.slots[k].ring.unplayed = e :: rest → s.cue.slots[k].anchor = .set tick time tempo →
    e.data = .note pitch velocity cls →
    let x := s.cue.slots[k]
    let due : Time := time + (((e.tick : Int) - tick) * tempo).tdiv 240
    let note (outcome : CommitOutcome) : Annotation :=
      let bar := 240 * x.timing.beatsPerBar
      { due := due - s.cue.syncOffset
        beatStart := x.timing.barOrigin + (e.tick - x.timing.barOrigin) / 240 * 240
        barStart := x.timing.barOrigin + (e.tick - x.timing.barOrigin) / bar * bar
        before := x.timing, outcome := outcome }
    let timed (flight : Nat) : Prop :=
      due - flight - (s.cue.horizonMs : Int) * 1000 ≤ (s.partTime : Int) + s.cue.syncOffset
    let ref : EntryRef :=
      { slot := k, place := x.ring.release + BitVec.ofNat 8 x.ring.retained.length, tick := e.tick }
    let error (kind : ErrorKind) (g : Option GroupId) (lateness : Option Nat) : Occurrence :=
      { kind := kind, origin := .cue k,
        detail := .strike (some { slot := k, tick := e.tick, pitch := pitch }) g none lateness }
    let q : Int := pitch + x.transposition
    let passes (v : State) (m : FaultMonitor) (outcome : CommitOutcome) : Prop :=
      ∃ u, Completes .commit s u ∧ Passes k e rest (note outcome) { v with fault := m } u
    ((∀ i g, translate s.pitch q ≠ .mapped i g) →
      (¬ timed 0 → exec .commit s = .next s) ∧
      (timed 0 →
        let v : State := { s with sched := { s.sched with stats := { s.sched.stats with
          skippedUnmapped := min 65535 (s.sched.stats.skippedUnmapped + 1) } } }
        ∃ m, Raised (error .pitchUnmapped none none) v m ∧ passes v m .skippedUnmapped)) ∧
    (∀ i g, translate s.pitch q = .mapped i g →
      let group := s.pitch.groups[g]
      let loud := max 1 (min 127 (velocity * x.dynamics / 100))
      let curve := s.pitch.curves[group.curve]
      let lane := s.pitch.lanes[cls]
      let fire : Time := due - s.cue.syncOffset - flightAt curve loud
      let lateness : Time := s.partTime - fire
      (¬ timed (flightAt curve loud) ∨ 64 ≤ s.sched.fireList.length → exec .commit s = .next s) ∧
      (timed (flightAt curve loud) → s.sched.fireList.length < 64 →
        (((s.sched.lateLimitsMs[lane] : Int) * 1000) < lateness →
          let v : State := { s with sched := { s.sched with stats := { s.sched.stats with
            skippedLate := min 65535 (s.sched.stats.skippedLate + 1) } } }
          ∃ m, Raised (error .strikeLate (some g) (some (min 4294967295 lateness.toNat))) v m ∧
            passes v m .skippedLate) ∧
        (lateness ≤ (s.sched.lateLimitsMs[lane] : Int) * 1000 →
          chooseMember group fire (candidates s group) = none →
          let v : State := { s with sched := { s.sched with stats := { s.sched.stats with
            skippedBusy := min 65535 (s.sched.stats.skippedBusy + 1) } } }
          ∃ m, Raised (error .strikeBusy (some g) none) v m ∧ passes v m .skippedBusy) ∧
        (∀ c at_, lateness ≤ (s.sched.lateLimitsMs[lane] : Int) * 1000 →
          chooseMember group fire (candidates s group) = some (c, at_) →
          let width := widthAt curve loud
          let kind : FiringKind := .strike ref pitch g
            { channel := c, rail := s.drive.strikes[c].rail, lane := lane, velocity := loud, width := width,
              charge := s.drive.strikes[c].currentClass * ((width + 99) / 100) }
          ∃ v u, Places at_ kind s v ∧ Passes k e rest (note .fired) v u ∧
            ((s.partTime : Int) < at_ → Completes .commit s u) ∧
            (at_ ≤ (s.partTime : Int) →
              ∃ w, Completes .commit s w ∧
                ArrivesInListOrder
                  { number := s.sched.placementCounter + 1, fireTime := at_, state := .waiting, kind := kind } u w))))

/-- The choice of a member (04 R68 to R71). The projected free time of a channel is the greatest of its base and of the
ends of the firings planned for it; the earliest of the unfenced members, the first among equals, strikes at the
offered time if it is free by then, and under DELAY at its own time within the delay limit. -/
def Obligations.MemberChoice : Prop :=
  (∀ (s : State) (c : ChannelId),
    let x := s.drive.strikes[c]
    let rest : Time := (x.recoveryMs : Int) * 1000
    let planned (f : Firing) (t : Time) : Prop :=
      ∃ sh, f.kind.shot? = some sh ∧ sh.channel = c ∧ t = f.fireTime + sh.width + rest
    ∀ stop base : Time,
      (∀ p, x.state = .driving p → stop = p.endTime + rest) →
      ((∀ p, x.state ≠ .driving p) → stop = x.readyTime) →
      (∀ p, x.nextPulse = some p → base = stop + p.width + rest) → (x.nextPulse = none → base = stop) →
      base ≤ projectedFree s c ∧ (∀ f ∈ s.sched.fireList, ∀ t, planned f t → t ≤ projectedFree s c) ∧
        (projectedFree s c = base ∨ ∃ f ∈ s.sched.fireList, planned f (projectedFree s c))) ∧
  (∀ (s : State) (g : Group),
    candidates s g =
      (g.members.filter fun c => s.drive.strikes[c].fenced = false).map fun c => (c, projectedFree s c)) ∧
  (∀ (g : Group) (fire : Time), chooseMember g fire [] = none) ∧
  (∀ (g : Group) (fire : Time) (front : List (ChannelId × Time)) (m : ChannelId × Time)
      (behind : List (ChannelId × Time)),
    (∀ n ∈ front, m.2 < n.2) → (∀ n ∈ behind, m.2 ≤ n.2) →
    (m.2 ≤ fire → chooseMember g fire (front ++ m :: behind) = some (m.1, fire)) ∧
    (fire < m.2 → g.policy = .delay → m.2 - fire ≤ (g.delayLimitMs : Int) * 1000 →
      chooseMember g fire (front ++ m :: behind) = some (m.1, m.2)) ∧
    (fire < m.2 → g.policy = .drop ∨ (g.delayLimitMs : Int) * 1000 < m.2 - fire →
      chooseMember g fire (front ++ m :: behind) = none))

/-- FIRE_TIME_ARRIVAL takes the first WAITING firing whose fire time has come; LATE_EXPIRY drops a RAIL_WAIT firing
whose late expiry has come, counts it and raises STRIKE_LATE (04 R74, R75). With no such firing the command changes
nothing (the model's choice, log 3). -/
def Obligations.ArrivalAndExpiry : Prop :=
  ∀ s : State,
    let arrives (f : Firing) : Prop := f.state = .waiting ∧ f.fireTime ≤ (s.partTime : Int)
    let expires (n : BitVec 32) (f : Firing) : Prop :=
      f.number = n ∧ ∃ t, f.state = .railWait t ∧ t ≤ (s.partTime : Int)
    (∀ front f behind, s.sched.fireList = front ++ f :: behind → (∀ g ∈ front, ¬ arrives g) → arrives f →
      ∃ u, Arrives f s u ∧ Completes .fireTimeArrival s u) ∧
    ((∀ f ∈ s.sched.fireList, ¬ arrives f) → exec .fireTimeArrival s = .next s) ∧
    (∀ (n : BitVec 32) (front : List Firing) (f : Firing) (behind : List Firing),
      s.sched.fireList = front ++ f :: behind → (∀ g ∈ front, ¬ expires n g) → expires n f →
      let dropped : State := { s with sched := { s.sched with
        fireList := front ++ behind
        stats := { s.sched.stats with expired := min 65535 (s.sched.stats.expired + 1) } } }
      let lateness := some (min 4294967295 ((s.partTime : Int) - f.fireTime).toNat)
      (∀ e pitch g sh, f.kind = .strike e pitch g sh →
        CompletesRaising (.lateExpiry n) s dropped
          { kind := .strikeLate, origin := .cue e.slot,
            detail := .strike (some { slot := e.slot, tick := e.tick, pitch := pitch }) (some g)
              (some sh.channel) lateness }) ∧
      (∀ sh, f.kind = .test sh →
        CompletesRaising (.lateExpiry n) s dropped
          { kind := .strikeLate, origin := .channel sh.channel,
            detail := .strike none none (some sh.channel) lateness })) ∧
    (∀ n, (∀ f ∈ s.sched.fireList, ¬ expires n f) → exec (.lateExpiry n) s = .next s)

/-! ### Rails -/

/-- LOAD PHASES and COMMIT PHASES (05 R92, R93): entries are written over a copy of the table, and a loaded table is
committed unless a rail that an unfenced grouped channel uses is named in no phase. -/
def Obligations.PhaseTables : Prop :=
  ∀ (f : Frame) (s t : State), ¬ FromShowInService f t →
    (∀ (offset count : Byte) (entries : List Byte), Offered 0x50 f s t → f.fields = offset :: count :: entries →
      entries.length = count.toNat →
      let a := Answers 0x50 (.loadPhases f) f s
      let inRange : Prop :=
        offset.toNat ≤ 63 ∧ 1 ≤ count.toNat ∧ count.toNat ≤ 32 ∧ offset.toNat + count.toNat ≤ 64 ∧
        ∀ e ∈ entries, e.toNat ≤ 4
      (¬ inRange → a .range [] t) ∧
      (∀ x, inRange → t.rail.pendingTable = .committed x → a .state [] t) ∧
      (∀ (es : List (Option RailId)) (base : PhaseTable), inRange → entries = es.map phaseCode →
        (t.rail.pendingTable = .empty ∧ base = t.rail.table) ∨ t.rail.pendingTable = .loading base →
        ∃ table : PhaseTable,
          (∀ n : Fin 64, table[n] =
            if offset.toNat ≤ n.val then es.getD (n.val - offset.toNat) base[n] else base[n]) ∧
          a .done [1] { t with rail := { t.rail with pendingTable := .loading table } })) ∧
    (Offered 0x51 f s t → f.fields = [] →
      let a := Answers 0x51 (.commitPhases f) f s
      ((∀ x, t.rail.pendingTable ≠ .loading x) → a .state [] t) ∧
      (∀ x, t.rail.pendingTable = .loading x →
        let uses (r : RailId) (c : ChannelId) : Prop :=
          t.drive.strikes[c].rail = r ∧ t.drive.strikes[c].fenced = false ∧ t.drive.strikes[c].group ≠ none
        let unserved (r : RailId) (c : ChannelId) : Prop := uses r c ∧ ∀ n : Fin 64, x[n] ≠ some r
        (∀ r c, unserved r c → (∀ q d, unserved q d → r ≤ q) → (∀ d, uses r d → c ≤ d) →
          a .conflict [finByte r, finByte c] t) ∧
        ((∀ r c, ¬ unserved r c) → a .done [] { t with rail := { t.rail with pendingTable := .committed x } })))

/-- SET RAIL and CLEAR RAIL LATCH (05 R97, R101, R102). A new limit acts on the near flag and the overload latch at
once; the latch is not cleared while the accumulator exceeds the limit. -/
def Obligations.RailSettings : Prop :=
  ∀ (f : Frame) (s t : State), ¬ FromShowInService f t →
    (∀ rail l1 l0 d1 d0 : Byte, Offered 0x53 f s t → f.fields = [rail, l1, l0, d1, d0] →
      let a := Answers 0x53 (.setRail f) f s
      (3 < rail.toNat ∨ 4095 < u16 d1 d0 → a .range [] t) ∧
      (∀ r : RailId, rail.toNat = r.val → u16 d1 d0 ≤ 4095 →
        let x := t.rail.rails[r]
        ∃ u, a .done (railData u r) u ∧
          TakesRail r
            { x with
              limit := u16 l1 l0, drain := u16 d1 d0
              near := decide (u16 l1 l0 * 3 / 4 < x.accumulator)
              latch := x.latch || decide (u16 l1 l0 < x.accumulator) } t u)) ∧
    (∀ rail : Byte, Offered 0x55 f s t → f.fields = [rail] →
      let a := Answers 0x55 (.clearRailLatch f) f s
      (3 < rail.toNat → a .range [] t) ∧
      (∀ r : RailId, rail.toNat = r.val →
        (t.rail.rails[r].limit < t.rail.rails[r].accumulator → a .state [] t) ∧
        (t.rail.rails[r].accumulator ≤ t.rail.rails[r].limit →
          a .done [] (updRail r (fun x => { x with latch := false }) t))))

/-- PHASE_START, once at each multiple of 250 µs (05 R89): a committed table goes into force at phase 0 with
TABLE_SWITCHED (R94), the four rails are accounted in turn (R98), from rail 0 to rail 3 (that order is the model's
choice, log 30), and the rail that the table names admits its waiting firings, lane 0 first (R105), one while it is near
its limit and up to four otherwise (R106); `Obligations.Admission` says how. At any other part time, or a second time at
one, the command changes nothing (the model's choice, log 3). -/
def Obligations.PhaseStart : Prop :=
  ∀ (noCurrent : BitVec 96) (s : State),
    let began : State := { s with rail := { s.rail with lastPhaseStart := some s.partTime } }
    let index : Fin 64 := Fin.ofNat 64 (s.partTime / 250)
    let waiting (u : State) (r : RailId) (lane : Lane) : List Firing :=
      u.sched.fireList.filter fun f =>
        f.railWaiting = true ∧ ∃ sh ∈ f.kind.shot?, sh.rail = r ∧ sh.lane = lane
    (s.partTime % 250 ≠ 0 ∨ s.rail.lastPhaseStart = some s.partTime →
      exec (.phaseStart noCurrent) s = .next s) ∧
    (s.partTime % 250 = 0 → s.rail.lastPhaseStart ≠ some s.partTime →
      ∃ v0 v1 v2 v3 u,
        (∀ x, index = 0 → s.rail.pendingTable = .committed x →
          v0 = { began with
            rail := { began.rail with table := x, pendingTable := .empty }
            fault := { s.fault with flags := s.fault.flags ||| AttentionFlag.tableSwitched.bit } }) ∧
        (index ≠ 0 ∨ (∀ x, s.rail.pendingTable ≠ .committed x) → v0 = began) ∧
        Accounts 0 v0 v1 ∧ Accounts 1 v1 v2 ∧ Accounts 2 v2 v3 ∧ Accounts 3 v3 u ∧
        (v0.rail.table[index] = none → Completes (.phaseStart noCurrent) s u) ∧
        (∀ r, v0.rail.table[index] = some r →
          Completes (.phaseStart noCurrent) s
            (walkGrants noCurrent (if u.rail.rails[r].near = true then 1 else 4)
              (waiting u r 0 ++ waiting u r 1) u)))

/-- The walk of an admission (05 R106, R107, 04 R76): a candidate whose channel is fenced, DRIVING, or RECOVER with a
full slot is passed over; the walk ends at one that the allowance or the effective limit does not let in; any other is
granted: its rail is charged, it leaves the list, and its pulse begins at once on an IDLE channel or waits in the slot
of a RECOVER one. -/
def Obligations.Admission : Prop :=
  ∀ (noCurrent : BitVec 96) (n : Nat) (f : Firing) (rest : List Firing) (sh : Shot) (s : State),
    walkGrants noCurrent n [] s = s ∧
    (f.kind.shot? = some sh →
      let x := s.drive.strikes[sh.channel]
      let rail := s.rail.rails[sh.rail]
      let passed : Prop :=
        x.fenced = true ∨ (∃ p, x.state = .driving p) ∨ (x.state = .recover ∧ x.nextPulse ≠ none)
      let fits : Prop := rail.accumulator + sh.charge ≤ if rail.latch = true then rail.limit / 2 else rail.limit
      (passed → walkGrants noCurrent n (f :: rest) s = walkGrants noCurrent n rest s) ∧
      (¬ passed → n = 0 ∨ ¬ fits → walkGrants noCurrent n (f :: rest) s = s) ∧
      (∀ m, ¬ passed → n = m + 1 → fits → f ∈ s.sched.fireList →
        let charged : State := updRail sh.rail (fun y =>
          { y with
            accumulator := y.accumulator + sh.charge
            near := decide (y.limit * 3 / 4 < y.accumulator + sh.charge) }) s
        let pulse : Pulse := { width := sh.width, source := f.kind.source, fireTime := f.fireTime }
        ∃ v w, Leaves f charged v ∧
          (x.state = .recover → w = updStrike sh.channel (fun y => { y with nextPulse := some pulse }) v) ∧
          (x.state = .idle → Begins sh.channel pulse (noCurrent.getLsbD sh.channel.val) v w) ∧
          walkGrants noCurrent n (f :: rest) s = walkGrants noCurrent m rest w))

/-! ### Drive unit -/

/-- SET CHANNEL (06 R119): refused out of range and in a section state that does not accept it; the record takes the
three values, and a channel that is not DRIVING takes a new ready time, waits for it if it is still to come, and
otherwise ends its recovery at once (R114). -/
def Obligations.SetChannel : Prop :=
  ∀ (f : Frame) (s t : State) (noCurrent : Bool) (channel rail cls recovery : Byte),
    Offered 0x60 f s t → ¬ FromShowInService f t → f.fields = [channel, rail, cls, recovery] →
    let a := Answers 0x60 (.setChannel f noCurrent) f s
    let inRange : Prop :=
      channel.toNat ≤ 95 ∧ rail.toNat ≤ 3 ∧ 1 ≤ cls.toNat ∧ cls.toNat ≤ 8 ∧ 2 ≤ recovery.toNat ∧ recovery.toNat ≤ 60
    (¬ inRange → a .range [] t) ∧
    (inRange → ¬ Configurable t → a .state [] t) ∧
    (∀ (c : ChannelId) (r : RailId), inRange → Configurable t → channel.toNat = c.val → rail.toNat = r.val →
      let x := t.drive.strikes[c]
      let set (y : StrikeChannel) : StrikeChannel :=
        { y with rail := r, currentClass := cls.toNat, recoveryMs := recovery.toNat }
      let ready : Time := match x.lastPulseEnd with
        | some e => e + (recovery.toNat : Int) * 1000
        | none => 0
      ((∃ p, x.state = .driving p) → a .done [] (updStrike c set t)) ∧
      ((∀ p, x.state ≠ .driving p) → (t.partTime : Int) < ready →
        a .done [] (updStrike c (fun y => { set y with readyTime := ready, state := .recover }) t)) ∧
      ((∀ p, x.state ≠ .driving p) → ready ≤ (t.partTime : Int) → x.nextPulse = none →
        a .done [] (updStrike c (fun y => { set y with readyTime := ready, state := .idle }) t)) ∧
      (∀ p, (∀ q, x.state ≠ .driving q) → ready ≤ (t.partTime : Int) → x.nextPulse = some p →
        ∃ u, Begins c p noCurrent (updStrike c (fun y => { set y with readyTime := ready, nextPulse := none }) t) u ∧
          a .done [] u))

/-- FENCE, UNFENCE and SHORT_REPORT (06 R115 to R118). A fence and a short cut a driving pulse, empty the next-pulse
slot and fence the channel; a short also sets the last sense result and raises DRIVE_SHORT with the width cut, or the
last one driven. -/
def Obligations.FenceAndShort : Prop :=
  ∀ (f : Frame) (s t : State) (channel : Byte), f.fields = [channel] →
    let out (now : Time) (x : StrikeChannel) : StrikeChannel :=
      if x.gate = true then
        { x with
          state := .recover, lastPulseEnd := some now, readyTime := now + (x.recoveryMs : Int) * 1000,
          nextPulse := none, fenced := true }
      else { x with nextPulse := none, fenced := true }
    (Offered 0x62 f s t →
      (95 < channel.toNat → Answers 0x62 (.fence f) f s .range [] t) ∧
      (∀ c : ChannelId, channel.toNat = c.val →
        Answers 0x62 (.fence f) f s .done [] (updStrike c (out t.partTime) t))) ∧
    (Offered 0x63 f s t → ¬ FromShowInService f t →
      (95 < channel.toNat → Answers 0x63 (.unfence f) f s .range [] t) ∧
      (∀ c : ChannelId, channel.toNat = c.val →
        Answers 0x63 (.unfence f) f s .done [] (updStrike c (fun x => { x with fenced := false }) t))) ∧
    (∀ (c : ChannelId) (width : Nat),
      (∀ p, s.drive.strikes[c].state = .driving p → width = p.pulse.width) →
      ((∀ p, s.drive.strikes[c].state ≠ .driving p) → width = s.drive.strikes[c].lastWidth) →
      CompletesRaising (.shortReport c) s
        (updStrike c (fun x => { out s.partTime x with lastSense := .shorted }) s)
        { kind := .driveShort, origin := .channel c, detail := .drive c width })

/-- PULSE_END and RECOVERY_END (06 R113, R114): at its end time a pulse ends, and at its ready time a channel begins
the pulse in its slot or becomes IDLE; before that, or in another state, the event does nothing (log 3). -/
def Obligations.PulseEvents : Prop :=
  ∀ (c : ChannelId) (noCurrent : Bool) (s : State),
    let x := s.drive.strikes[c]
    (∀ p, x.state = .driving p → p.endTime ≤ (s.partTime : Int) →
      Completes (.pulseEnd c) s (updStrike c (fun y =>
        { y with
          state := .recover, lastPulseEnd := some p.endTime
          readyTime := p.endTime + (y.recoveryMs : Int) * 1000 }) s)) ∧
    ((∀ p, x.state = .driving p → (s.partTime : Int) < p.endTime) → exec (.pulseEnd c) s = .next s) ∧
    (x.state = .recover → x.readyTime ≤ (s.partTime : Int) →
      (x.nextPulse = none →
        Completes (.recoveryEnd c noCurrent) s (updStrike c (fun y => { y with state := .idle }) s)) ∧
      (∀ p, x.nextPulse = some p →
        ∃ u, Begins c p noCurrent (updStrike c (fun y => { y with nextPulse := none }) s) u ∧
          Completes (.recoveryEnd c noCurrent) s u)) ∧
    (x.state ≠ .recover ∨ (s.partTime : Int) < x.readyTime → exec (.recoveryEnd c noCurrent) s = .next s)

/-- TEST FIRE, from the pendant in SERVICE (06 R128, 04 R67): a TEST firing in lane 0 with the curve's width is placed
with fire time now and reaches RAIL_WAIT in the same event. -/
def Obligations.TestFire : Prop :=
  ∀ (f : Frame) (s t : State) (channel velocity curve : Byte),
    Offered 0x66 f s t → f.link = .servicePort → f.fields = [channel, velocity, curve] →
    let a := Answers 0x66 (.testFire f) f s
    let inRange : Prop := channel.toNat ≤ 95 ∧ 1 ≤ velocity.toNat ∧ velocity.toNat ≤ 127 ∧ curve.toNat ≤ 7
    (¬ inRange → a .range [] t) ∧
    (inRange → t.sect.state ≠ .service → a .state [] t) ∧
    (inRange → t.sect.state = .service → 64 ≤ t.sched.fireList.length → a .full [] t) ∧
    (∀ (c : ChannelId) (v : CurveId), inRange → t.sect.state = .service → t.sched.fireList.length < 64 →
      channel.toNat = c.val → curve.toNat = v.val →
      let x := t.drive.strikes[c]
      let width := widthAt t.pitch.curves[v] velocity.toNat
      let shot : Shot :=
        { channel := c, rail := x.rail, lane := 0, velocity := velocity.toNat, width := width,
          charge := x.currentClass * ((width + 99) / 100) }
      let number := t.sched.placementCounter + 1
      ∃ w u, Places t.partTime (.test shot) t w ∧
        Arrives { number := number, fireTime := t.partTime, state := .waiting, kind := .test shot } w u ∧
        a .done (be32 number.toNat ++ be16 width ++ be16 shot.charge) u)

/-- Hold and rotor channels: SET HOLD CHANNEL and SET ROTOR CHANNEL (06 R122, R126), TEST HOLD and TEST ROTOR from the
pendant in SERVICE (R129), and RAMP_TIMER_EXPIRY (R125), which completes a hush when nothing moves any more (07 R134).
With the timer stopped, or before its expiry, RAMP_TIMER_EXPIRY changes nothing (the model's choice, log 3). -/
def Obligations.HoldsAndRotors : Prop :=
  ∀ (f : Frame) (s t : State),
    (∀ channel rail load1 load0 : Byte, Offered 0x64 f s t → ¬ FromShowInService f t →
      f.fields = [channel, rail, load1, load0] →
      let a := Answers 0x64 (.setHoldChannel f) f s
      let inRange : Prop := channel.toNat ≤ 3 ∧ rail.toNat ≤ 3 ∧ u16 load1 load0 ≤ 1023
      (¬ inRange → a .range [] t) ∧
      (inRange → ¬ Configurable t → a .state [] t) ∧
      (∀ (h : HoldId) (r : RailId), inRange → Configurable t → channel.toNat = h.val → rail.toNat = r.val →
        a .done [] (updHold h (fun x => { x with rail := r, load := u16 load1 load0 }) t))) ∧
    (∀ channel rail load1 load0 step : Byte, Offered 0x65 f s t → ¬ FromShowInService f t →
      f.fields = [channel, rail, load1, load0, step] →
      let a := Answers 0x65 (.setRotorChannel f) f s
      let inRange : Prop :=
        channel.toNat ≤ 1 ∧ rail.toNat ≤ 3 ∧ u16 load1 load0 ≤ 1023 ∧ 1 ≤ step.toNat ∧ step.toNat ≤ 40
      (¬ inRange → a .range [] t) ∧
      (inRange → ¬ Configurable t → a .state [] t) ∧
      (∀ (m : RotorId) (r : RailId), inRange → Configurable t → channel.toNat = m.val → rail.toNat = r.val →
        a .done []
          (updRotor m (fun x => { x with rail := r, load := u16 load1 load0, rampStep := step.toNat }) t))) ∧
    (∀ channel on : Byte, Offered 0x67 f s t → f.link = .servicePort → f.fields = [channel, on] →
      let a := Answers 0x67 (.testHold f) f s
      (3 < channel.toNat ∨ 1 < on.toNat → a .range [] t) ∧
      (∀ (h : HoldId) (b : Bool), channel.toNat = h.val → on = boolByte b →
        (t.sect.state ≠ .service → a .state [] t) ∧
        (t.sect.state = .service → a .done [] (updHold h (fun x => { x with on := b }) t)))) ∧
    (∀ channel target : Byte, Offered 0x68 f s t → f.link = .servicePort → f.fields = [channel, target] →
      let a := Answers 0x68 (.testRotor f) f s
      (1 < channel.toNat ∨ 120 < target.toNat → a .range [] t) ∧
      (∀ m : RotorId, channel.toNat = m.val → target.toNat ≤ 120 →
        (t.sect.state ≠ .service → a .state [] t) ∧
        (t.sect.state = .service →
          a .done [target, byteOf t.drive.rotors[m].current] (updRotor m (rotorTo t.partTime target.toNat) t)))) ∧
    (∀ m : RotorId,
      let x := s.drive.rotors[m]
      let step := if x.hushRamp = true then 40 else x.rampStep
      let speed := if x.current ≤ x.target then min x.target (x.current + step) else max x.target (x.current - step)
      (∀ e, x.timer = some e → e ≤ (s.partTime : Int) →
        let u := updRotor m (fun y =>
          { y with
            current := speed
            hushRamp := if speed = y.target then false else y.hushRamp
            timer := if speed = y.target then none else some (e + 100000) }) s
        let done : Prop :=
          s.sect.state = .hushing ∧ (∀ c : ChannelId, s.drive.strikes[c].gate = false) ∧
            ∀ n : RotorId, u.drive.rotors[n].current = 0
        (¬ done → Completes (.rampTimerExpiry m) s u) ∧
        (done →
          ∃ w, HushEnds s.sect u w ∧ w = { u with sect := w.sect, fault := w.fault } ∧
            Completes (.rampTimerExpiry m) s w)) ∧
      (x.timer = none ∨ (∃ e, x.timer = some e ∧ (s.partTime : Int) < e) → exec (.rampTimerExpiry m) s = .next s))

/-! ### Section control -/

/-- HUSH and SECTION RESET. HUSH begins a hush from every state but HUSHING, addressed or broadcast, and changes
nothing in HUSHING (07 R135, R131, R133). SECTION RESET is refused in HUSHING and HALTED; otherwise it clears
attention flags 3 to 11 and begins a hush (07 R144). -/
def Obligations.HushRequests : Prop :=
  ∀ (f : Frame) (s t : State), f.fields = [] →
    let own : HushTarget := if t.sect.state = .service then .service else .quiet
    (Offered 0x71 f s t →
      (t.sect.state = .hushing → Answers 0x71 (.hush f) f s .done [] t) ∧
      (t.sect.state ≠ .hushing → ∃ u, HushBegins own false t u ∧ Answers 0x71 (.hush f) f s .done [] u)) ∧
    (OfferedToAll 0x71 f s t →
      (t.sect.state = .hushing → Completes (.hush f) s t) ∧
      (t.sect.state ≠ .hushing → ∃ u, HushBegins own false t u ∧ Completes (.hush f) s u)) ∧
    (Offered 0x72 f s t → ¬ FromShowInService f t →
      (t.sect.state = .hushing ∨ t.sect.state = .halted → Answers 0x72 (.sectionReset f) f s .state [] t) ∧
      (t.sect.state ≠ .hushing → t.sect.state ≠ .halted →
        ∃ u, HushBegins own false { t with fault := { t.fault with flags := t.fault.flags &&& 0xF007 } } u ∧
          Answers 0x72 (.sectionReset f) f s .done [] u))

/-- TAKE from the pendant, by the section state and the forced flag (07 R138, Table 7.3.1). A forced TAKE in PLAYING or
PAUSED replies HUSHING even when its hush completes in the same event (the model's reading, log 21). A TAKE at the part
time of a pendant silence expiry is judged in the state the expiry has left (the model's reading of R140, log 31). -/
def Obligations.Take : Prop :=
  ∀ (f : Frame) (s t : State) (forced : Byte), Offered 0x73 f s t → f.link = .servicePort → f.fields = [forced] →
    let a := Answers 0x73 (.take f) f s
    let timer : Option Time := some (t.sect.silenceTimer.getD (t.now + 2000000))
    (1 < forced.toNat → a .range [] t) ∧
    (forced.toNat ≤ 1 → t.sect.state = .quiet ∨ t.sect.state = .halted →
      a .done [4] { t with
        sect := { t.sect with state := .service, takeover := .held, silenceTimer := timer }
        fault := { t.fault with flags := t.fault.flags ||| AttentionFlag.takeover.bit } }) ∧
    (forced.toNat ≤ 1 → t.sect.state = .service → a .done [4] t) ∧
    (forced = 0 → t.sect.state = .playing ∨ t.sect.state = .paused ∨ t.sect.state = .hushing → a .state [] t) ∧
    (forced = 1 → t.sect.state = .playing ∨ t.sect.state = .paused →
      ∃ u, HushBegins .service false { t with sect := { t.sect with takeover := .claiming } } u ∧ a .done [3] u) ∧
    (forced = 1 → t.sect.state = .hushing →
      a .done [3] { t with sect :=
        { t.sect with
          hushTarget := .service, silenceTimer := timer
          takeover := if t.sect.takeover = .none then .claiming else t.sect.takeover } })

/-- RELEASE and CLEAR HALT (07 R141, R143). RELEASE removes what TEST requests left to strike, gives the takeover up,
and enters HALTED while halt-pending stands and an unmasked FATAL kind has its status set, and QUIET otherwise, where
the best waiting cue is judged; its reply is QUIET even when that cue starts (the model's reading, log 21). CLEAR HALT
is refused CONFLICT with the lowest such kind. -/
def Obligations.ReleaseAndClearHalt : Prop :=
  ∀ (f : Frame) (s t : State), f.fields = [] →
    let halts (k : Fin 13) : Prop :=
      t.fault.kinds[k].masked = false ∧ t.fault.kinds[k].severity = .fatal ∧ t.fault.kinds[k].status = true
    (Offered 0x74 f s t → f.link = .servicePort →
      let a := Answers 0x74 (.release f) f s
      let given (v : State) (state : SectionState) (halt : Bool) : Prop :=
        (∀ c : ChannelId, v.drive.strikes[c] =
          let x := t.drive.strikes[c]
          let y := if x.nextPulse.map Pulse.source = some .test then { x with nextPulse := none } else x
          match x.state with
          | .driving p =>
            if p.pulse.source = .test then
              { y with
                state := .recover, lastPulseEnd := some t.now
                readyTime := t.now + (x.recoveryMs : Int) * 1000 }
            else y
          | .idle | .recover => y) ∧
        v = { t with
          sched := { t.sched with fireList := t.sched.fireList.filter fun g => g.kind.source != .test }
          drive := { t.drive with strikes := v.drive.strikes }
          sect := { t.sect with state := state, haltPending := halt, silenceTimer := none, takeover := .none }
          fault := { t.fault with flags := t.fault.flags ||| AttentionFlag.takeover.bit } }
      (t.sect.state ≠ .service → a .state [] t) ∧
      (∀ k, t.sect.state = .service → t.sect.haltPending = true → halts k →
        ∃ u, given u .halted true ∧ a .done [5] u) ∧
      (t.sect.state = .service → t.sect.haltPending = false ∨ (∀ k, ¬ halts k) →
        ∃ v u, given v .quiet false ∧ Judged v u ∧ a .done [0] u)) ∧
    (Offered 0x75 f s t →
      let a := Answers 0x75 (.clearHalt f) f s
      (t.sect.state ≠ .halted → a .state [] t) ∧
      (∀ k, t.sect.state = .halted → halts k → (∀ j, halts j → k ≤ j) → a .conflict [finByte k] t) ∧
      (t.sect.state = .halted → (∀ k, ¬ halts k) →
        a .done [] { t with sect := { t.sect with state := .quiet, haltPending := false } }))

/-- PENDANT_SILENCE_EXPIRY (07 R140): PENDANT_LOST; a hush to QUIET, or a running one turned to QUIET; TAKEOVER if the
record was HELD, which becomes NONE; the timer stops. With every rotor at rest the hush completes in the same event, so
that a TAKE after it is not judged in HUSHING, also where R140 says so (the model's reading, log 31). Before the expiry
time, or with the timer stopped, the event does nothing (the model's choice, log 3). -/
def Obligations.PendantSilenceExpiry : Prop :=
  ∀ s : State,
    let givenUp (u : State) : State := { u with
      sect := { u.sect with takeover := .none, silenceTimer := none }
      fault := if u.sect.takeover = .held then
        { u.fault with flags := u.fault.flags ||| AttentionFlag.takeover.bit } else u.fault }
    (∀ e, s.sect.silenceTimer = some e → e ≤ (s.partTime : Int) →
      ∃ m, Raised { kind := .pendantLost, origin := .link .servicePort, detail := .nothing } s m ∧
        (s.sect.state = .hushing →
          Completes .pendantSilenceExpiry s
            (givenUp { s with fault := m, sect := { s.sect with hushTarget := .quiet } })) ∧
        (s.sect.state ≠ .hushing →
          ∃ u, HushBegins .quiet false { s with fault := m } u ∧
            Completes .pendantSilenceExpiry s (givenUp u))) ∧
    ((∀ e, s.sect.silenceTimer = some e → (s.partTime : Int) < e) → exec .pendantSilenceExpiry s = .next s)

/-! ### Fault monitor -/

/-- CLEAR FAULTS, SET FAULT MASK, SET SEVERITY and CLEAR CAPTURE (08 R155 to R158): each changes its own field of the
kinds it names, and nothing else. A set that names a kind above 12 is refused, and so are a value that is neither
MASKED nor UNMASKED, and any severity for DRIVE_SHORT. -/
def Obligations.FaultKinds : Prop :=
  ∀ (f : Frame) (s t : State),
    let named (high low : Byte) (k : Fin 13) : Prop := (u16 high low).testBit k.val = true
    let setOf (p : KindRecord → Bool) (u : State) : List Byte :=
      be16 ((u.fault.kinds.toList.map p).foldr (fun b n => b.toNat + 2 * n) 0)
    let kindsOnly (u : State) : Prop := u = { t with fault := { t.fault with kinds := u.fault.kinds } }
    (∀ high low : Byte, Offered 0x81 f s t → f.fields = [high, low] →
      let a := Answers 0x81 (.clearFaults f) f s
      (8192 ≤ u16 high low → a .range [] t) ∧
      (u16 high low < 8192 →
        ∃ u, kindsOnly u ∧
          (∀ k, named high low k → u.fault.kinds[k] = { t.fault.kinds[k] with status := false }) ∧
          (∀ k, ¬ named high low k → u.fault.kinds[k] = t.fault.kinds[k]) ∧
          a .done (setOf KindRecord.status u) u)) ∧
    (∀ high low value : Byte, Offered 0x82 f s t → f.fields = [high, low, value] →
      let a := Answers 0x82 (.setFaultMask f) f s
      (8192 ≤ u16 high low ∨ 1 < value.toNat → a .range [] t) ∧
      (∀ masked : Bool, u16 high low < 8192 → value = boolByte masked →
        ∃ u, kindsOnly u ∧
          (∀ k, named high low k → u.fault.kinds[k] = { t.fault.kinds[k] with masked := masked }) ∧
          (∀ k, ¬ named high low k → u.fault.kinds[k] = t.fault.kinds[k]) ∧
          a .done (setOf KindRecord.masked u) u)) ∧
    (∀ kind severity : Byte, Offered 0x83 f s t → f.fields = [kind, severity] →
      let a := Answers 0x83 (.setSeverity f) f s
      (12 < kind.toNat ∨ 2 < severity.toNat ∨ kind.toNat = 10 → a .range [] t) ∧
      (∀ (k : Fin 13) (v : Severity), kind.toNat = k.val → kind.toNat ≠ 10 → severity = v.code →
        ∃ u, kindsOnly u ∧ u.fault.kinds[k] = { t.fault.kinds[k] with severity := v } ∧
          (∀ j, j ≠ k → u.fault.kinds[j] = t.fault.kinds[j]) ∧ a .done [kind, severity] u)) ∧
    (Offered 0x85 f s t → f.fields = [] →
      Answers 0x85 (.clearCapture f) f s .done [] { t with fault := { t.fault with capture := none } })

/-- CLEAR ATTENTION, MASK ATTENTION, UNMASK ATTENTION and CALL (08 R162 to R164), in every section state. The line is
asserted while a set flag has its mask bit clear (R160). -/
def Obligations.AttentionRequests : Prop :=
  ∀ (f : Frame) (s t : State),
    let line (flags mask : BitVec 16) : Byte :=
      boolByte (decide (∃ n : Fin 16, flags.getLsbD n.val = true ∧ mask.getLsbD n.val = false))
    (∀ high low : Byte, f.fields = [high, low] →
      let named : BitVec 16 := high ++ low
      (Offered 0x88 f s t →
        let flags := t.fault.flags &&& ~~~named
        Answers 0x88 (.clearAttention f) f s .done (be16 flags.toNat)
          { t with fault := { t.fault with flags := flags } }) ∧
      (Offered 0x89 f s t →
        let mask := t.fault.mask ||| named
        Answers 0x89 (.maskAttention f) f s .done (be16 mask.toNat ++ [line t.fault.flags mask])
          { t with fault := { t.fault with mask := mask } }) ∧
      (Offered 0x8A f s t →
        let mask := t.fault.mask &&& ~~~named
        Answers 0x8A (.unmaskAttention f) f s .done (be16 mask.toNat ++ [line t.fault.flags mask])
          { t with fault := { t.fault with mask := mask } })) ∧
    (∀ number : Byte, Offered 0x8B f s t → f.link = .servicePort → f.fields = [number] →
      (3 < number.toNat → Answers 0x8B (.call f) f s .range [] t) ∧
      (number.toNat ≤ 3 →
        Answers 0x8B (.call f) f s .done []
          { t with fault := { t.fault with flags := t.fault.flags ||| 1#16 <<< (12 + number.toNat) } }))

/-! ### Laws that every step keeps -/

/-- Every step keeps the rails' flags in agreement with their accumulators (05 R97, R98). -/
def Obligations.RailFlagsKept : Prop :=
  ∀ s t : State, OverloadLatched s → NearFlagTrue s → step s = .next t → OverloadLatched t ∧ NearFlagTrue t

/-- Every step keeps a fenced strike channel out of play (06 R117). -/
def Obligations.FencesKept : Prop := ∀ s t : State, FencedSilent s → step s = .next t → FencedSilent t

/-- Every step keeps the fire list within 64 firings and in the order of their fire times (04 R65). -/
def Obligations.FireListKept : Prop := ∀ s t : State, FireListInOrder s → step s = .next t → FireListInOrder t

/-- Every step keeps each ring within 256 entries, in tick order (01 R4). -/
def Obligations.RingsKept : Prop := ∀ s t : State, RingsInOrder s → step s = .next t → RingsInOrder t

/-- Every step keeps a hush silent: while HUSHING no slot is filled, no firing planned, no pulse driven or waiting
(07 R132). -/
def Obligations.HushKept : Prop := ∀ s t : State, HushingSilent s → step s = .next t → HushingSilent t

/-- Every step keeps the windows valid and apart, and the channels' memberships in agreement with the groups (03 R49,
R55). -/
def Obligations.PitchMapKept : Prop :=
  ∀ s t : State, WindowsValid s → WindowsApart s → MembershipAgrees s → step s = .next t →
    WindowsValid t ∧ WindowsApart t ∧ MembershipAgrees t

/-- Every step keeps the sounding role with at most one slot, the section in agreement with it and halt-pending in its
place, the firings with the sounding slot and the TEST firings in SERVICE, and the stack and the waiting set with the
slots they name (02 R28, R32, R36, 04 R67, 07 R130). -/
def Obligations.RolesKept : Prop :=
  ∀ s t : State, RoleLaw s → HaltPendingPlaced s → StackNamesSuspended s → WaitingSetNamesWaiting s →
    step s = .next t →
    RoleLaw t ∧ HaltPendingPlaced t ∧ StackNamesSuspended t ∧ WaitingSetNamesWaiting t

/-- Every step keeps the small laws: no fatal cause is left undelivered (08 R149), DRIVE_SHORT stays FATAL (08 R157),
class 0 stays in lane 0 (03 R61), and a link holds at most two frames (09 R173). -/
def Obligations.SmallLawsKept : Prop :=
  ∀ s t : State, FatalDelivered s → ShortIsFatal s → ClassZeroInLaneZero s → BuffersBounded s → step s = .next t →
    FatalDelivered t ∧ ShortIsFatal t ∧ ClassZeroInLaneZero t ∧ BuffersBounded t

end StatementsOfSlice0
end

