-- ==== Sys2Proof/Laws/State.lean ====
section
/-! SUPPORT. One lemma per field per update of the state, each true by computation, so that no proof unfolds a
record update; and what a changed table holds. -/

namespace Sys2Proof.Machine

set_option linter.all false

/-! ### Tables -/

@[simp] theorem upd_get_val {α : Type} {n : Nat} (v : Vector α n) (i : Fin n) (f : α → α) (h : i.val < n) :
    (upd v i f)[i.val]'h = f (v[i.val]'h) := by simp [upd]

@[simp] theorem upd_get_self {α : Type} {n : Nat} (v : Vector α n) (i : Fin n) (f : α → α) :
    (upd v i f)[i] = f v[i] := upd_get_val v i f i.isLt

theorem upd_get_ne {α : Type} {n : Nat} (v : Vector α n) (i j : Fin n) (f : α → α) (h : i ≠ j) :
    (upd v i f)[j] = v[j] := by
  have : i.val ≠ j.val := fun e => h (Fin.ext e)
  simp [upd, this]

/-- An entry of a table with one entry changed. -/
theorem upd_get {α : Type} {n : Nat} (v : Vector α n) (i j : Fin n) (f : α → α) :
    (upd v i f)[j] = if i = j then f v[j] else v[j] := by
  by_cases h : i = j
  · subst h; simp
  · rw [if_neg h]; exact upd_get_ne v i j f h

@[simp] theorem mapAll_get_val {α β : Type} {n : Nat} (f : α → β) (v : Vector α n) (i : Nat) (h : i < n) :
    (mapAll f v)[i]'h = f (v[i]'h) := by
  simp [mapAll, Vector.getElem_mk]

@[simp] theorem mapAll_get {α β : Type} {n : Nat} (f : α → β) (v : Vector α n) (i : Fin n) :
    (mapAll f v)[i] = f v[i] := mapAll_get_val f v i.val i.isLt

/-! ### updSlot -/

@[simp] theorem updSlot_partTime (k : SlotId) (f : Slot → Slot) (s : State) : (updSlot k f s).partTime = s.partTime := rfl
@[simp] theorem updSlot_arb (k : SlotId) (f : Slot → Slot) (s : State) : (updSlot k f s).arb = s.arb := rfl
@[simp] theorem updSlot_pitch (k : SlotId) (f : Slot → Slot) (s : State) : (updSlot k f s).pitch = s.pitch := rfl
@[simp] theorem updSlot_sched (k : SlotId) (f : Slot → Slot) (s : State) : (updSlot k f s).sched = s.sched := rfl
@[simp] theorem updSlot_rail (k : SlotId) (f : Slot → Slot) (s : State) : (updSlot k f s).rail = s.rail := rfl
@[simp] theorem updSlot_drive (k : SlotId) (f : Slot → Slot) (s : State) : (updSlot k f s).drive = s.drive := rfl
@[simp] theorem updSlot_sect (k : SlotId) (f : Slot → Slot) (s : State) : (updSlot k f s).sect = s.sect := rfl
@[simp] theorem updSlot_fault (k : SlotId) (f : Slot → Slot) (s : State) : (updSlot k f s).fault = s.fault := rfl
@[simp] theorem updSlot_showUnit (k : SlotId) (f : Slot → Slot) (s : State) : (updSlot k f s).showUnit = s.showUnit := rfl
@[simp] theorem updSlot_serviceUnit (k : SlotId) (f : Slot → Slot) (s : State) : (updSlot k f s).serviceUnit = s.serviceUnit := rfl
@[simp] theorem updSlot_settings (k : SlotId) (f : Slot → Slot) (s : State) : (updSlot k f s).settings = s.settings := rfl
@[simp] theorem updSlot_freeCount (k : SlotId) (f : Slot → Slot) (s : State) : (updSlot k f s).freeCount = s.freeCount := rfl
@[simp] theorem updSlot_pending (k : SlotId) (f : Slot → Slot) (s : State) : (updSlot k f s).pending = s.pending := rfl

/-! ### updRail -/

@[simp] theorem updRail_partTime (r : RailId) (f : Rail → Rail) (s : State) : (updRail r f s).partTime = s.partTime := rfl
@[simp] theorem updRail_cue (r : RailId) (f : Rail → Rail) (s : State) : (updRail r f s).cue = s.cue := rfl
@[simp] theorem updRail_arb (r : RailId) (f : Rail → Rail) (s : State) : (updRail r f s).arb = s.arb := rfl
@[simp] theorem updRail_pitch (r : RailId) (f : Rail → Rail) (s : State) : (updRail r f s).pitch = s.pitch := rfl
@[simp] theorem updRail_sched (r : RailId) (f : Rail → Rail) (s : State) : (updRail r f s).sched = s.sched := rfl
@[simp] theorem updRail_drive (r : RailId) (f : Rail → Rail) (s : State) : (updRail r f s).drive = s.drive := rfl
@[simp] theorem updRail_sect (r : RailId) (f : Rail → Rail) (s : State) : (updRail r f s).sect = s.sect := rfl
@[simp] theorem updRail_fault (r : RailId) (f : Rail → Rail) (s : State) : (updRail r f s).fault = s.fault := rfl
@[simp] theorem updRail_showUnit (r : RailId) (f : Rail → Rail) (s : State) : (updRail r f s).showUnit = s.showUnit := rfl
@[simp] theorem updRail_serviceUnit (r : RailId) (f : Rail → Rail) (s : State) : (updRail r f s).serviceUnit = s.serviceUnit := rfl
@[simp] theorem updRail_settings (r : RailId) (f : Rail → Rail) (s : State) : (updRail r f s).settings = s.settings := rfl
@[simp] theorem updRail_freeCount (r : RailId) (f : Rail → Rail) (s : State) : (updRail r f s).freeCount = s.freeCount := rfl
@[simp] theorem updRail_pending (r : RailId) (f : Rail → Rail) (s : State) : (updRail r f s).pending = s.pending := rfl

/-! ### updStrike -/

@[simp] theorem updStrike_partTime (c : ChannelId) (f : StrikeChannel → StrikeChannel) (s : State) : (updStrike c f s).partTime = s.partTime := rfl
@[simp] theorem updStrike_cue (c : ChannelId) (f : StrikeChannel → StrikeChannel) (s : State) : (updStrike c f s).cue = s.cue := rfl
@[simp] theorem updStrike_arb (c : ChannelId) (f : StrikeChannel → StrikeChannel) (s : State) : (updStrike c f s).arb = s.arb := rfl
@[simp] theorem updStrike_pitch (c : ChannelId) (f : StrikeChannel → StrikeChannel) (s : State) : (updStrike c f s).pitch = s.pitch := rfl
@[simp] theorem updStrike_sched (c : ChannelId) (f : StrikeChannel → StrikeChannel) (s : State) : (updStrike c f s).sched = s.sched := rfl
@[simp] theorem updStrike_rail (c : ChannelId) (f : StrikeChannel → StrikeChannel) (s : State) : (updStrike c f s).rail = s.rail := rfl
@[simp] theorem updStrike_sect (c : ChannelId) (f : StrikeChannel → StrikeChannel) (s : State) : (updStrike c f s).sect = s.sect := rfl
@[simp] theorem updStrike_fault (c : ChannelId) (f : StrikeChannel → StrikeChannel) (s : State) : (updStrike c f s).fault = s.fault := rfl
@[simp] theorem updStrike_showUnit (c : ChannelId) (f : StrikeChannel → StrikeChannel) (s : State) : (updStrike c f s).showUnit = s.showUnit := rfl
@[simp] theorem updStrike_serviceUnit (c : ChannelId) (f : StrikeChannel → StrikeChannel) (s : State) : (updStrike c f s).serviceUnit = s.serviceUnit := rfl
@[simp] theorem updStrike_settings (c : ChannelId) (f : StrikeChannel → StrikeChannel) (s : State) : (updStrike c f s).settings = s.settings := rfl
@[simp] theorem updStrike_freeCount (c : ChannelId) (f : StrikeChannel → StrikeChannel) (s : State) : (updStrike c f s).freeCount = s.freeCount := rfl
@[simp] theorem updStrike_pending (c : ChannelId) (f : StrikeChannel → StrikeChannel) (s : State) : (updStrike c f s).pending = s.pending := rfl

/-! ### updHold -/

@[simp] theorem updHold_partTime (h : HoldId) (f : HoldChannel → HoldChannel) (s : State) : (updHold h f s).partTime = s.partTime := rfl
@[simp] theorem updHold_cue (h : HoldId) (f : HoldChannel → HoldChannel) (s : State) : (updHold h f s).cue = s.cue := rfl
@[simp] theorem updHold_arb (h : HoldId) (f : HoldChannel → HoldChannel) (s : State) : (updHold h f s).arb = s.arb := rfl
@[simp] theorem updHold_pitch (h : HoldId) (f : HoldChannel → HoldChannel) (s : State) : (updHold h f s).pitch = s.pitch := rfl
@[simp] theorem updHold_sched (h : HoldId) (f : HoldChannel → HoldChannel) (s : State) : (updHold h f s).sched = s.sched := rfl
@[simp] theorem updHold_rail (h : HoldId) (f : HoldChannel → HoldChannel) (s : State) : (updHold h f s).rail = s.rail := rfl
@[simp] theorem updHold_sect (h : HoldId) (f : HoldChannel → HoldChannel) (s : State) : (updHold h f s).sect = s.sect := rfl
@[simp] theorem updHold_fault (h : HoldId) (f : HoldChannel → HoldChannel) (s : State) : (updHold h f s).fault = s.fault := rfl
@[simp] theorem updHold_showUnit (h : HoldId) (f : HoldChannel → HoldChannel) (s : State) : (updHold h f s).showUnit = s.showUnit := rfl
@[simp] theorem updHold_serviceUnit (h : HoldId) (f : HoldChannel → HoldChannel) (s : State) : (updHold h f s).serviceUnit = s.serviceUnit := rfl
@[simp] theorem updHold_settings (h : HoldId) (f : HoldChannel → HoldChannel) (s : State) : (updHold h f s).settings = s.settings := rfl
@[simp] theorem updHold_freeCount (h : HoldId) (f : HoldChannel → HoldChannel) (s : State) : (updHold h f s).freeCount = s.freeCount := rfl
@[simp] theorem updHold_pending (h : HoldId) (f : HoldChannel → HoldChannel) (s : State) : (updHold h f s).pending = s.pending := rfl

/-! ### updRotor -/

@[simp] theorem updRotor_partTime (m : RotorId) (f : RotorChannel → RotorChannel) (s : State) : (updRotor m f s).partTime = s.partTime := rfl
@[simp] theorem updRotor_cue (m : RotorId) (f : RotorChannel → RotorChannel) (s : State) : (updRotor m f s).cue = s.cue := rfl
@[simp] theorem updRotor_arb (m : RotorId) (f : RotorChannel → RotorChannel) (s : State) : (updRotor m f s).arb = s.arb := rfl
@[simp] theorem updRotor_pitch (m : RotorId) (f : RotorChannel → RotorChannel) (s : State) : (updRotor m f s).pitch = s.pitch := rfl
@[simp] theorem updRotor_sched (m : RotorId) (f : RotorChannel → RotorChannel) (s : State) : (updRotor m f s).sched = s.sched := rfl
@[simp] theorem updRotor_rail (m : RotorId) (f : RotorChannel → RotorChannel) (s : State) : (updRotor m f s).rail = s.rail := rfl
@[simp] theorem updRotor_sect (m : RotorId) (f : RotorChannel → RotorChannel) (s : State) : (updRotor m f s).sect = s.sect := rfl
@[simp] theorem updRotor_fault (m : RotorId) (f : RotorChannel → RotorChannel) (s : State) : (updRotor m f s).fault = s.fault := rfl
@[simp] theorem updRotor_showUnit (m : RotorId) (f : RotorChannel → RotorChannel) (s : State) : (updRotor m f s).showUnit = s.showUnit := rfl
@[simp] theorem updRotor_serviceUnit (m : RotorId) (f : RotorChannel → RotorChannel) (s : State) : (updRotor m f s).serviceUnit = s.serviceUnit := rfl
@[simp] theorem updRotor_settings (m : RotorId) (f : RotorChannel → RotorChannel) (s : State) : (updRotor m f s).settings = s.settings := rfl
@[simp] theorem updRotor_freeCount (m : RotorId) (f : RotorChannel → RotorChannel) (s : State) : (updRotor m f s).freeCount = s.freeCount := rfl
@[simp] theorem updRotor_pending (m : RotorId) (f : RotorChannel → RotorChannel) (s : State) : (updRotor m f s).pending = s.pending := rfl

/-! ### setFlag -/

@[simp] theorem setFlag_partTime (f : AttentionFlag) (s : State) : (setFlag f s).partTime = s.partTime := rfl
@[simp] theorem setFlag_cue (f : AttentionFlag) (s : State) : (setFlag f s).cue = s.cue := rfl
@[simp] theorem setFlag_arb (f : AttentionFlag) (s : State) : (setFlag f s).arb = s.arb := rfl
@[simp] theorem setFlag_pitch (f : AttentionFlag) (s : State) : (setFlag f s).pitch = s.pitch := rfl
@[simp] theorem setFlag_sched (f : AttentionFlag) (s : State) : (setFlag f s).sched = s.sched := rfl
@[simp] theorem setFlag_rail (f : AttentionFlag) (s : State) : (setFlag f s).rail = s.rail := rfl
@[simp] theorem setFlag_drive (f : AttentionFlag) (s : State) : (setFlag f s).drive = s.drive := rfl
@[simp] theorem setFlag_sect (f : AttentionFlag) (s : State) : (setFlag f s).sect = s.sect := rfl
@[simp] theorem setFlag_showUnit (f : AttentionFlag) (s : State) : (setFlag f s).showUnit = s.showUnit := rfl
@[simp] theorem setFlag_serviceUnit (f : AttentionFlag) (s : State) : (setFlag f s).serviceUnit = s.serviceUnit := rfl
@[simp] theorem setFlag_settings (f : AttentionFlag) (s : State) : (setFlag f s).settings = s.settings := rfl
@[simp] theorem setFlag_freeCount (f : AttentionFlag) (s : State) : (setFlag f s).freeCount = s.freeCount := rfl
@[simp] theorem setFlag_pending (f : AttentionFlag) (s : State) : (setFlag f s).pending = s.pending := rfl

/-! ### setSection -/

@[simp] theorem setSection_partTime (st : SectionState) (s : State) : (setSection st s).partTime = s.partTime := rfl
@[simp] theorem setSection_cue (st : SectionState) (s : State) : (setSection st s).cue = s.cue := rfl
@[simp] theorem setSection_arb (st : SectionState) (s : State) : (setSection st s).arb = s.arb := rfl
@[simp] theorem setSection_pitch (st : SectionState) (s : State) : (setSection st s).pitch = s.pitch := rfl
@[simp] theorem setSection_sched (st : SectionState) (s : State) : (setSection st s).sched = s.sched := rfl
@[simp] theorem setSection_rail (st : SectionState) (s : State) : (setSection st s).rail = s.rail := rfl
@[simp] theorem setSection_drive (st : SectionState) (s : State) : (setSection st s).drive = s.drive := rfl
@[simp] theorem setSection_fault (st : SectionState) (s : State) : (setSection st s).fault = s.fault := rfl
@[simp] theorem setSection_showUnit (st : SectionState) (s : State) : (setSection st s).showUnit = s.showUnit := rfl
@[simp] theorem setSection_serviceUnit (st : SectionState) (s : State) : (setSection st s).serviceUnit = s.serviceUnit := rfl
@[simp] theorem setSection_settings (st : SectionState) (s : State) : (setSection st s).settings = s.settings := rfl
@[simp] theorem setSection_freeCount (st : SectionState) (s : State) : (setSection st s).freeCount = s.freeCount := rfl
@[simp] theorem setSection_pending (st : SectionState) (s : State) : (setSection st s).pending = s.pending := rfl

/-! ### setFireList -/

@[simp] theorem setFireList_partTime (l : List Firing) (s : State) : (setFireList l s).partTime = s.partTime := rfl
@[simp] theorem setFireList_cue (l : List Firing) (s : State) : (setFireList l s).cue = s.cue := rfl
@[simp] theorem setFireList_arb (l : List Firing) (s : State) : (setFireList l s).arb = s.arb := rfl
@[simp] theorem setFireList_pitch (l : List Firing) (s : State) : (setFireList l s).pitch = s.pitch := rfl
@[simp] theorem setFireList_rail (l : List Firing) (s : State) : (setFireList l s).rail = s.rail := rfl
@[simp] theorem setFireList_drive (l : List Firing) (s : State) : (setFireList l s).drive = s.drive := rfl
@[simp] theorem setFireList_sect (l : List Firing) (s : State) : (setFireList l s).sect = s.sect := rfl
@[simp] theorem setFireList_fault (l : List Firing) (s : State) : (setFireList l s).fault = s.fault := rfl
@[simp] theorem setFireList_showUnit (l : List Firing) (s : State) : (setFireList l s).showUnit = s.showUnit := rfl
@[simp] theorem setFireList_serviceUnit (l : List Firing) (s : State) : (setFireList l s).serviceUnit = s.serviceUnit := rfl
@[simp] theorem setFireList_settings (l : List Firing) (s : State) : (setFireList l s).settings = s.settings := rfl
@[simp] theorem setFireList_freeCount (l : List Firing) (s : State) : (setFireList l s).freeCount = s.freeCount := rfl
@[simp] theorem setFireList_pending (l : List Firing) (s : State) : (setFireList l s).pending = s.pending := rfl

/-! ### switchHold -/

@[simp] theorem switchHold_partTime (h : HoldId) (on : Bool) (s : State) : (switchHold h on s).partTime = s.partTime := rfl
@[simp] theorem switchHold_cue (h : HoldId) (on : Bool) (s : State) : (switchHold h on s).cue = s.cue := rfl
@[simp] theorem switchHold_arb (h : HoldId) (on : Bool) (s : State) : (switchHold h on s).arb = s.arb := rfl
@[simp] theorem switchHold_pitch (h : HoldId) (on : Bool) (s : State) : (switchHold h on s).pitch = s.pitch := rfl
@[simp] theorem switchHold_sched (h : HoldId) (on : Bool) (s : State) : (switchHold h on s).sched = s.sched := rfl
@[simp] theorem switchHold_rail (h : HoldId) (on : Bool) (s : State) : (switchHold h on s).rail = s.rail := rfl
@[simp] theorem switchHold_sect (h : HoldId) (on : Bool) (s : State) : (switchHold h on s).sect = s.sect := rfl
@[simp] theorem switchHold_fault (h : HoldId) (on : Bool) (s : State) : (switchHold h on s).fault = s.fault := rfl
@[simp] theorem switchHold_showUnit (h : HoldId) (on : Bool) (s : State) : (switchHold h on s).showUnit = s.showUnit := rfl
@[simp] theorem switchHold_serviceUnit (h : HoldId) (on : Bool) (s : State) : (switchHold h on s).serviceUnit = s.serviceUnit := rfl
@[simp] theorem switchHold_settings (h : HoldId) (on : Bool) (s : State) : (switchHold h on s).settings = s.settings := rfl
@[simp] theorem switchHold_freeCount (h : HoldId) (on : Bool) (s : State) : (switchHold h on s).freeCount = s.freeCount := rfl
@[simp] theorem switchHold_pending (h : HoldId) (on : Bool) (s : State) : (switchHold h on s).pending = s.pending := rfl

/-! ### setRotorTarget -/

@[simp] theorem setRotorTarget_partTime (m : RotorId) (target : Nat) (s : State) : (setRotorTarget m target s).partTime = s.partTime := rfl
@[simp] theorem setRotorTarget_cue (m : RotorId) (target : Nat) (s : State) : (setRotorTarget m target s).cue = s.cue := rfl
@[simp] theorem setRotorTarget_arb (m : RotorId) (target : Nat) (s : State) : (setRotorTarget m target s).arb = s.arb := rfl
@[simp] theorem setRotorTarget_pitch (m : RotorId) (target : Nat) (s : State) : (setRotorTarget m target s).pitch = s.pitch := rfl
@[simp] theorem setRotorTarget_sched (m : RotorId) (target : Nat) (s : State) : (setRotorTarget m target s).sched = s.sched := rfl
@[simp] theorem setRotorTarget_rail (m : RotorId) (target : Nat) (s : State) : (setRotorTarget m target s).rail = s.rail := rfl
@[simp] theorem setRotorTarget_sect (m : RotorId) (target : Nat) (s : State) : (setRotorTarget m target s).sect = s.sect := rfl
@[simp] theorem setRotorTarget_fault (m : RotorId) (target : Nat) (s : State) : (setRotorTarget m target s).fault = s.fault := rfl
@[simp] theorem setRotorTarget_showUnit (m : RotorId) (target : Nat) (s : State) : (setRotorTarget m target s).showUnit = s.showUnit := rfl
@[simp] theorem setRotorTarget_serviceUnit (m : RotorId) (target : Nat) (s : State) : (setRotorTarget m target s).serviceUnit = s.serviceUnit := rfl
@[simp] theorem setRotorTarget_settings (m : RotorId) (target : Nat) (s : State) : (setRotorTarget m target s).settings = s.settings := rfl
@[simp] theorem setRotorTarget_freeCount (m : RotorId) (target : Nat) (s : State) : (setRotorTarget m target s).freeCount = s.freeCount := rfl
@[simp] theorem setRotorTarget_pending (m : RotorId) (target : Nat) (s : State) : (setRotorTarget m target s).pending = s.pending := rfl

/-! ### The other fields of the changed block -/

@[simp] theorem updSlot_cue_syncOffset (k : SlotId) (f : Slot → Slot) (s : State) : (updSlot k f s).cue.syncOffset = s.cue.syncOffset := rfl
@[simp] theorem updSlot_cue_horizonMs (k : SlotId) (f : Slot → Slot) (s : State) : (updSlot k f s).cue.horizonMs = s.cue.horizonMs := rfl
@[simp] theorem updRail_rail_table (r : RailId) (f : Rail → Rail) (s : State) : (updRail r f s).rail.table = s.rail.table := rfl
@[simp] theorem updRail_rail_pendingTable (r : RailId) (f : Rail → Rail) (s : State) : (updRail r f s).rail.pendingTable = s.rail.pendingTable := rfl
@[simp] theorem updRail_rail_lastPhaseStart (r : RailId) (f : Rail → Rail) (s : State) : (updRail r f s).rail.lastPhaseStart = s.rail.lastPhaseStart := rfl
@[simp] theorem updStrike_drive_holds (c : ChannelId) (f : StrikeChannel → StrikeChannel) (s : State) : (updStrike c f s).drive.holds = s.drive.holds := rfl
@[simp] theorem updStrike_drive_rotors (c : ChannelId) (f : StrikeChannel → StrikeChannel) (s : State) : (updStrike c f s).drive.rotors = s.drive.rotors := rfl
@[simp] theorem updHold_drive_strikes (h : HoldId) (f : HoldChannel → HoldChannel) (s : State) : (updHold h f s).drive.strikes = s.drive.strikes := rfl
@[simp] theorem updHold_drive_rotors (h : HoldId) (f : HoldChannel → HoldChannel) (s : State) : (updHold h f s).drive.rotors = s.drive.rotors := rfl
@[simp] theorem updRotor_drive_strikes (m : RotorId) (f : RotorChannel → RotorChannel) (s : State) : (updRotor m f s).drive.strikes = s.drive.strikes := rfl
@[simp] theorem updRotor_drive_holds (m : RotorId) (f : RotorChannel → RotorChannel) (s : State) : (updRotor m f s).drive.holds = s.drive.holds := rfl
@[simp] theorem setFlag_fault_kinds (f : AttentionFlag) (s : State) : (setFlag f s).fault.kinds = s.fault.kinds := rfl
@[simp] theorem setFlag_fault_capture (f : AttentionFlag) (s : State) : (setFlag f s).fault.capture = s.fault.capture := rfl
@[simp] theorem setFlag_fault_mask (f : AttentionFlag) (s : State) : (setFlag f s).fault.mask = s.fault.mask := rfl
@[simp] theorem setFlag_fault_fatalDue (f : AttentionFlag) (s : State) : (setFlag f s).fault.fatalDue = s.fault.fatalDue := rfl
@[simp] theorem setSection_sect_hushTarget (st : SectionState) (s : State) : (setSection st s).sect.hushTarget = s.sect.hushTarget := rfl
@[simp] theorem setSection_sect_haltPending (st : SectionState) (s : State) : (setSection st s).sect.haltPending = s.sect.haltPending := rfl
@[simp] theorem setSection_sect_takeover (st : SectionState) (s : State) : (setSection st s).sect.takeover = s.sect.takeover := rfl
@[simp] theorem setSection_sect_breakHush (st : SectionState) (s : State) : (setSection st s).sect.breakHush = s.sect.breakHush := rfl
@[simp] theorem setSection_sect_silenceTimer (st : SectionState) (s : State) : (setSection st s).sect.silenceTimer = s.sect.silenceTimer := rfl
@[simp] theorem setFireList_sched_placementCounter (l : List Firing) (s : State) : (setFireList l s).sched.placementCounter = s.sched.placementCounter := rfl
@[simp] theorem setFireList_sched_lateLimitsMs (l : List Firing) (s : State) : (setFireList l s).sched.lateLimitsMs = s.sched.lateLimitsMs := rfl
@[simp] theorem setFireList_sched_stats (l : List Firing) (s : State) : (setFireList l s).sched.stats = s.sched.stats := rfl
@[simp] theorem setFireList_sched_lastMark (l : List Firing) (s : State) : (setFireList l s).sched.lastMark = s.sched.lastMark := rfl
@[simp] theorem switchHold_drive_strikes (h : HoldId) (on : Bool) (s : State) : (switchHold h on s).drive.strikes = s.drive.strikes := rfl
@[simp] theorem switchHold_drive_rotors (h : HoldId) (on : Bool) (s : State) : (switchHold h on s).drive.rotors = s.drive.rotors := rfl
@[simp] theorem setRotorTarget_drive_strikes (m : RotorId) (target : Nat) (s : State) : (setRotorTarget m target s).drive.strikes = s.drive.strikes := rfl
@[simp] theorem setRotorTarget_drive_holds (m : RotorId) (target : Nat) (s : State) : (setRotorTarget m target s).drive.holds = s.drive.holds := rfl

/-! ### The changed field -/

@[simp] theorem updSlot_cue_slots (k : SlotId) (f : Slot → Slot) (s : State) : (updSlot k f s).cue.slots = upd s.cue.slots k f := rfl
@[simp] theorem updRail_rail_rails (r : RailId) (f : Rail → Rail) (s : State) : (updRail r f s).rail.rails = upd s.rail.rails r f := rfl
@[simp] theorem updStrike_drive_strikes (c : ChannelId) (f : StrikeChannel → StrikeChannel) (s : State) : (updStrike c f s).drive.strikes = upd s.drive.strikes c f := rfl
@[simp] theorem updHold_drive_holds (h : HoldId) (f : HoldChannel → HoldChannel) (s : State) : (updHold h f s).drive.holds = upd s.drive.holds h f := rfl
@[simp] theorem updRotor_drive_rotors (m : RotorId) (f : RotorChannel → RotorChannel) (s : State) : (updRotor m f s).drive.rotors = upd s.drive.rotors m f := rfl
@[simp] theorem setFlag_fault_flags (f : AttentionFlag) (s : State) : (setFlag f s).fault.flags = s.fault.flags ||| f.bit := rfl
@[simp] theorem setSection_sect_state (st : SectionState) (s : State) : (setSection st s).sect.state = st := rfl
@[simp] theorem setFireList_sched_fireList (l : List Firing) (s : State) : (setFireList l s).sched.fireList = l := rfl
@[simp] theorem switchHold_drive_holds (h : HoldId) (on : Bool) (s : State) : (switchHold h on s).drive.holds = upd s.drive.holds h fun x => { x with on := on } := rfl
@[simp] theorem setRotorTarget_drive_rotors (m : RotorId) (target : Nat) (s : State) : (setRotorTarget m target s).drive.rotors = upd s.drive.rotors m (.withTarget s.now target) := rfl

/-! ### Links -/

@[simp] theorem updUnit_partTime (l : Link) (f : LinkUnit → LinkUnit) (s : State) : (updUnit l f s).partTime = s.partTime := by
  cases l <;> rfl
@[simp] theorem updUnit_cue (l : Link) (f : LinkUnit → LinkUnit) (s : State) : (updUnit l f s).cue = s.cue := by
  cases l <;> rfl
@[simp] theorem updUnit_arb (l : Link) (f : LinkUnit → LinkUnit) (s : State) : (updUnit l f s).arb = s.arb := by
  cases l <;> rfl
@[simp] theorem updUnit_pitch (l : Link) (f : LinkUnit → LinkUnit) (s : State) : (updUnit l f s).pitch = s.pitch := by
  cases l <;> rfl
@[simp] theorem updUnit_sched (l : Link) (f : LinkUnit → LinkUnit) (s : State) : (updUnit l f s).sched = s.sched := by
  cases l <;> rfl
@[simp] theorem updUnit_rail (l : Link) (f : LinkUnit → LinkUnit) (s : State) : (updUnit l f s).rail = s.rail := by
  cases l <;> rfl
@[simp] theorem updUnit_drive (l : Link) (f : LinkUnit → LinkUnit) (s : State) : (updUnit l f s).drive = s.drive := by
  cases l <;> rfl
@[simp] theorem updUnit_sect (l : Link) (f : LinkUnit → LinkUnit) (s : State) : (updUnit l f s).sect = s.sect := by
  cases l <;> rfl
@[simp] theorem updUnit_fault (l : Link) (f : LinkUnit → LinkUnit) (s : State) : (updUnit l f s).fault = s.fault := by
  cases l <;> rfl
@[simp] theorem updUnit_settings (l : Link) (f : LinkUnit → LinkUnit) (s : State) : (updUnit l f s).settings = s.settings := by
  cases l <;> rfl
@[simp] theorem updUnit_freeCount (l : Link) (f : LinkUnit → LinkUnit) (s : State) : (updUnit l f s).freeCount = s.freeCount := by
  cases l <;> rfl
@[simp] theorem updUnit_pending (l : Link) (f : LinkUnit → LinkUnit) (s : State) : (updUnit l f s).pending = s.pending := by
  cases l <;> rfl

@[simp] theorem updUnit_unit_self (l : Link) (f : LinkUnit → LinkUnit) (s : State) :
    (updUnit l f s).unit l = f (s.unit l) := by cases l <;> rfl

theorem updUnit_unit_other (l m : Link) (f : LinkUnit → LinkUnit) (s : State) (h : m ≠ l) :
    (updUnit l f s).unit m = s.unit m := by
  cases l <;> cases m <;> simp_all <;> rfl

/-! ### Two changes of one record that agree on it -/

theorem upd_congr {α : Type} {n : Nat} {v : Vector α n} {i : Fin n} {f g : α → α} (h : f v[i] = g v[i]) :
    upd v i f = upd v i g := by unfold upd; rw [h]

theorem updSlot_congr {k : SlotId} {f g : Slot → Slot} {s : State} (h : f s.cue.slots[k] = g s.cue.slots[k]) :
    updSlot k f s = updSlot k g s := by unfold updSlot; rw [upd_congr h]

theorem updRail_congr {r : RailId} {f g : Rail → Rail} {s : State} (h : f s.rail.rails[r] = g s.rail.rails[r]) :
    updRail r f s = updRail r g s := by unfold updRail; rw [upd_congr h]

theorem updStrike_congr {c : ChannelId} {f g : StrikeChannel → StrikeChannel} {s : State}
    (h : f s.drive.strikes[c] = g s.drive.strikes[c]) : updStrike c f s = updStrike c g s := by
  unfold updStrike; rw [upd_congr h]

theorem updRotor_congr {m : RotorId} {f g : RotorChannel → RotorChannel} {s : State}
    (h : f s.drive.rotors[m] = g s.drive.rotors[m]) : updRotor m f s = updRotor m g s := by
  unfold updRotor; rw [upd_congr h]

theorem updUnit_congr {l : Link} {f g : LinkUnit → LinkUnit} {s : State} (h : f (s.unit l) = g (s.unit l)) :
    updUnit l f s = updUnit l g s := by
  cases l <;> simp only [updUnit, State.unit] at * <;> rw [h]

/-! ### Two changes of one record in turn -/

theorem upd_upd {α : Type} {n : Nat} (v : Vector α n) (i : Fin n) (f g : α → α) :
    upd (upd v i f) i g = upd v i fun x => g (f x) := by
  simp [upd]

theorem updSlot_updSlot (k : SlotId) (f g : Slot → Slot) (s : State) :
    updSlot k g (updSlot k f s) = updSlot k (fun x => g (f x)) s := by simp [updSlot, upd_upd]

theorem updStrike_updStrike (c : ChannelId) (f g : StrikeChannel → StrikeChannel) (s : State) :
    updStrike c g (updStrike c f s) = updStrike c (fun x => g (f x)) s := by simp [updStrike, upd_upd]

@[simp] theorem now_eq (s : State) : s.now = (s.partTime : Int) := rfl

end Sys2Proof.Machine
end

