-- ==== Sys2Proof/Laws/Keeps.lean ====
section
/-! SUPPORT. What each shared operation of the blocks leaves alone: one lemma for each, which later proofs cite in
place of unfolding it. -/

namespace Sys2Proof.Machine

set_option linter.all false

@[simp] theorem startTimer_breakHush (now : Time) (r : SectionRecord) :
    (r.startTimer now).breakHush = r.breakHush := by
  unfold SectionRecord.startTimer; split <;> rfl

@[simp] theorem restartTimer_breakHush (now : Time) (r : SectionRecord) :
    (r.restartTimer now).breakHush = r.breakHush := by
  unfold SectionRecord.restartTimer; split <;> rfl

@[simp] theorem completed_breakHush (r : SectionRecord) : r.completed.breakHush = r.breakHush := by
  unfold SectionRecord.completed; split <;> rfl

@[simp] theorem hushBegun_breakHush (now : Time) (t : HushTarget) (h : Bool) (r : SectionRecord) :
    (r.hushBegun now t h).breakHush = r.breakHush := by
  unfold SectionRecord.hushBegun; split <;> simp

/-- An occurrence reaches the fault monitor only (08 R148). -/
@[simp] theorem raise_keeps (o : Occurrence) (s : State) :
    (raise o s).partTime = s.partTime ∧
    (raise o s).cue = s.cue ∧
    (raise o s).arb = s.arb ∧
    (raise o s).pitch = s.pitch ∧
    (raise o s).sched = s.sched ∧
    (raise o s).rail = s.rail ∧
    (raise o s).drive = s.drive ∧
    (raise o s).sect = s.sect ∧
    (raise o s).fault.mask = s.fault.mask ∧
    (raise o s).showUnit = s.showUnit ∧
    (raise o s).serviceUnit = s.serviceUnit ∧
    (raise o s).settings = s.settings ∧
    (raise o s).freeCount = s.freeCount ∧
    (raise o s).pending = s.pending := by
  refine ⟨?_, ?_, ?_, ?_, ?_, ?_, ?_, ?_, ?_, ?_, ?_, ?_, ?_, ?_⟩ <;> (unfold raise; (try dsimp only) <;> (repeat' split) <;> (try simp))

@[simp] theorem recordBegin_keeps (p : Pulse) (s : State) :
    (recordBegin p s).partTime = s.partTime ∧
    (recordBegin p s).cue = s.cue ∧
    (recordBegin p s).arb = s.arb ∧
    (recordBegin p s).pitch = s.pitch ∧
    (recordBegin p s).sched.lateLimitsMs = s.sched.lateLimitsMs ∧
    (recordBegin p s).rail = s.rail ∧
    (recordBegin p s).drive = s.drive ∧
    (recordBegin p s).sect = s.sect ∧
    (recordBegin p s).fault = s.fault ∧
    (recordBegin p s).showUnit = s.showUnit ∧
    (recordBegin p s).serviceUnit = s.serviceUnit ∧
    (recordBegin p s).settings = s.settings ∧
    (recordBegin p s).freeCount = s.freeCount ∧
    (recordBegin p s).pending = s.pending := by
  refine ⟨?_, ?_, ?_, ?_, ?_, ?_, ?_, ?_, ?_, ?_, ?_, ?_, ?_, ?_⟩ <;> (unfold recordBegin; (try dsimp only) <;> (repeat' split) <;> (try simp))

@[simp] theorem raiseOpen_keeps (c : ChannelId) (w : Nat) (b : Bool) (s : State) :
    (raiseOpen c w b s).partTime = s.partTime ∧
    (raiseOpen c w b s).cue = s.cue ∧
    (raiseOpen c w b s).arb = s.arb ∧
    (raiseOpen c w b s).pitch = s.pitch ∧
    (raiseOpen c w b s).sched = s.sched ∧
    (raiseOpen c w b s).rail = s.rail ∧
    (raiseOpen c w b s).drive = s.drive ∧
    (raiseOpen c w b s).sect = s.sect ∧
    (raiseOpen c w b s).fault.mask = s.fault.mask ∧
    (raiseOpen c w b s).showUnit = s.showUnit ∧
    (raiseOpen c w b s).serviceUnit = s.serviceUnit ∧
    (raiseOpen c w b s).settings = s.settings ∧
    (raiseOpen c w b s).freeCount = s.freeCount ∧
    (raiseOpen c w b s).pending = s.pending := by
  refine ⟨?_, ?_, ?_, ?_, ?_, ?_, ?_, ?_, ?_, ?_, ?_, ?_, ?_, ?_⟩ <;> (unfold raiseOpen; (try dsimp only) <;> (repeat' split) <;> (try simp))

/-- A pulse begin reaches the channel, the statistics and the fault monitor (06 R112). -/
@[simp] theorem beginPulse_keeps (c : ChannelId) (p : Pulse) (b : Bool) (s : State) :
    (beginPulse c p b s).partTime = s.partTime ∧
    (beginPulse c p b s).cue = s.cue ∧
    (beginPulse c p b s).arb = s.arb ∧
    (beginPulse c p b s).pitch = s.pitch ∧
    (beginPulse c p b s).sched.lateLimitsMs = s.sched.lateLimitsMs ∧
    (beginPulse c p b s).rail = s.rail ∧
    (beginPulse c p b s).sect = s.sect ∧
    (beginPulse c p b s).fault.mask = s.fault.mask ∧
    (beginPulse c p b s).showUnit = s.showUnit ∧
    (beginPulse c p b s).serviceUnit = s.serviceUnit ∧
    (beginPulse c p b s).settings = s.settings ∧
    (beginPulse c p b s).freeCount = s.freeCount ∧
    (beginPulse c p b s).pending = s.pending := by
  refine ⟨?_, ?_, ?_, ?_, ?_, ?_, ?_, ?_, ?_, ?_, ?_, ?_, ?_⟩ <;> (unfold beginPulse; (try dsimp only) <;> (repeat' split) <;> (try simp))

@[simp] theorem grantPulse_keeps (c : ChannelId) (p : Pulse) (b : Bool) (s : State) :
    (grantPulse c p b s).partTime = s.partTime ∧
    (grantPulse c p b s).cue = s.cue ∧
    (grantPulse c p b s).arb = s.arb ∧
    (grantPulse c p b s).pitch = s.pitch ∧
    (grantPulse c p b s).sched.lateLimitsMs = s.sched.lateLimitsMs ∧
    (grantPulse c p b s).rail = s.rail ∧
    (grantPulse c p b s).sect = s.sect ∧
    (grantPulse c p b s).fault.mask = s.fault.mask ∧
    (grantPulse c p b s).showUnit = s.showUnit ∧
    (grantPulse c p b s).serviceUnit = s.serviceUnit ∧
    (grantPulse c p b s).settings = s.settings ∧
    (grantPulse c p b s).freeCount = s.freeCount ∧
    (grantPulse c p b s).pending = s.pending := by
  refine ⟨?_, ?_, ?_, ?_, ?_, ?_, ?_, ?_, ?_, ?_, ?_, ?_, ?_⟩ <;> (unfold grantPulse; (try dsimp only) <;> (repeat' split) <;> (try simp))

@[simp] theorem endRecovery_keeps (c : ChannelId) (b : Bool) (s : State) :
    (endRecovery c b s).partTime = s.partTime ∧
    (endRecovery c b s).cue = s.cue ∧
    (endRecovery c b s).arb = s.arb ∧
    (endRecovery c b s).pitch = s.pitch ∧
    (endRecovery c b s).sched.lateLimitsMs = s.sched.lateLimitsMs ∧
    (endRecovery c b s).rail = s.rail ∧
    (endRecovery c b s).sect = s.sect ∧
    (endRecovery c b s).fault.mask = s.fault.mask ∧
    (endRecovery c b s).showUnit = s.showUnit ∧
    (endRecovery c b s).serviceUnit = s.serviceUnit ∧
    (endRecovery c b s).settings = s.settings ∧
    (endRecovery c b s).freeCount = s.freeCount ∧
    (endRecovery c b s).pending = s.pending := by
  refine ⟨?_, ?_, ?_, ?_, ?_, ?_, ?_, ?_, ?_, ?_, ?_, ?_, ?_⟩ <;> (unfold endRecovery; (try dsimp only) <;> (repeat' split) <;> (try simp))

@[simp] theorem removeFiring_keeps (f : Firing) (s : State) :
    (removeFiring f s).partTime = s.partTime ∧
    (removeFiring f s).cue = s.cue ∧
    (removeFiring f s).arb = s.arb ∧
    (removeFiring f s).pitch = s.pitch ∧
    (removeFiring f s).sched.lateLimitsMs = s.sched.lateLimitsMs ∧
    (removeFiring f s).rail = s.rail ∧
    (removeFiring f s).drive = s.drive ∧
    (removeFiring f s).sect = s.sect ∧
    (removeFiring f s).fault = s.fault ∧
    (removeFiring f s).showUnit = s.showUnit ∧
    (removeFiring f s).serviceUnit = s.serviceUnit ∧
    (removeFiring f s).settings = s.settings ∧
    (removeFiring f s).freeCount = s.freeCount ∧
    (removeFiring f s).pending = s.pending := by
  refine ⟨?_, ?_, ?_, ?_, ?_, ?_, ?_, ?_, ?_, ?_, ?_, ?_, ?_, ?_⟩ <;> (unfold removeFiring; (try dsimp only) <;> (repeat' split) <;> (try simp))

@[simp] theorem replaceFiring_keeps (f g : Firing) (s : State) :
    (replaceFiring f g s).partTime = s.partTime ∧
    (replaceFiring f g s).cue = s.cue ∧
    (replaceFiring f g s).arb = s.arb ∧
    (replaceFiring f g s).pitch = s.pitch ∧
    (replaceFiring f g s).sched.lateLimitsMs = s.sched.lateLimitsMs ∧
    (replaceFiring f g s).rail = s.rail ∧
    (replaceFiring f g s).drive = s.drive ∧
    (replaceFiring f g s).sect = s.sect ∧
    (replaceFiring f g s).fault = s.fault ∧
    (replaceFiring f g s).showUnit = s.showUnit ∧
    (replaceFiring f g s).serviceUnit = s.serviceUnit ∧
    (replaceFiring f g s).settings = s.settings ∧
    (replaceFiring f g s).freeCount = s.freeCount ∧
    (replaceFiring f g s).pending = s.pending := by
  refine ⟨?_, ?_, ?_, ?_, ?_, ?_, ?_, ?_, ?_, ?_, ?_, ?_, ?_, ?_⟩ <;> (unfold replaceFiring; (try dsimp only) <;> (repeat' split) <;> (try simp))

@[simp] theorem placeFiring_keeps (t : Time) (k : FiringKind) (s : State) :
    (placeFiring t k s).partTime = s.partTime ∧
    (placeFiring t k s).cue = s.cue ∧
    (placeFiring t k s).arb = s.arb ∧
    (placeFiring t k s).pitch = s.pitch ∧
    (placeFiring t k s).sched.lateLimitsMs = s.sched.lateLimitsMs ∧
    (placeFiring t k s).rail = s.rail ∧
    (placeFiring t k s).drive = s.drive ∧
    (placeFiring t k s).sect = s.sect ∧
    (placeFiring t k s).fault = s.fault ∧
    (placeFiring t k s).showUnit = s.showUnit ∧
    (placeFiring t k s).serviceUnit = s.serviceUnit ∧
    (placeFiring t k s).settings = s.settings ∧
    (placeFiring t k s).freeCount = s.freeCount ∧
    (placeFiring t k s).pending = s.pending := by
  refine ⟨?_, ?_, ?_, ?_, ?_, ?_, ?_, ?_, ?_, ?_, ?_, ?_, ?_, ?_⟩ <;> (unfold placeFiring; (try dsimp only) <;> (repeat' split) <;> (try simp))

@[simp] theorem skipLate_keeps (o : Offer) (s : State) :
    (skipLate o s).partTime = s.partTime ∧
    (skipLate o s).cue = s.cue ∧
    (skipLate o s).arb = s.arb ∧
    (skipLate o s).pitch = s.pitch ∧
    (skipLate o s).sched.lateLimitsMs = s.sched.lateLimitsMs ∧
    (skipLate o s).rail = s.rail ∧
    (skipLate o s).drive = s.drive ∧
    (skipLate o s).sect = s.sect ∧
    (skipLate o s).fault.mask = s.fault.mask ∧
    (skipLate o s).showUnit = s.showUnit ∧
    (skipLate o s).serviceUnit = s.serviceUnit ∧
    (skipLate o s).settings = s.settings ∧
    (skipLate o s).freeCount = s.freeCount ∧
    (skipLate o s).pending = s.pending := by
  refine ⟨?_, ?_, ?_, ?_, ?_, ?_, ?_, ?_, ?_, ?_, ?_, ?_, ?_, ?_⟩ <;> (unfold skipLate; (try dsimp only) <;> (repeat' split) <;> (try simp))

@[simp] theorem skipBusy_keeps (o : Offer) (s : State) :
    (skipBusy o s).partTime = s.partTime ∧
    (skipBusy o s).cue = s.cue ∧
    (skipBusy o s).arb = s.arb ∧
    (skipBusy o s).pitch = s.pitch ∧
    (skipBusy o s).sched.lateLimitsMs = s.sched.lateLimitsMs ∧
    (skipBusy o s).rail = s.rail ∧
    (skipBusy o s).drive = s.drive ∧
    (skipBusy o s).sect = s.sect ∧
    (skipBusy o s).fault.mask = s.fault.mask ∧
    (skipBusy o s).showUnit = s.showUnit ∧
    (skipBusy o s).serviceUnit = s.serviceUnit ∧
    (skipBusy o s).settings = s.settings ∧
    (skipBusy o s).freeCount = s.freeCount ∧
    (skipBusy o s).pending = s.pending := by
  refine ⟨?_, ?_, ?_, ?_, ?_, ?_, ?_, ?_, ?_, ?_, ?_, ?_, ?_, ?_⟩ <;> (unfold skipBusy; (try dsimp only) <;> (repeat' split) <;> (try simp))

/-- An offer reaches the fire list, the skip counts and the fault monitor (04 R68). -/
@[simp] theorem takeOffer_keeps (o : Offer) (s : State) :
    ((takeOffer o s).1).partTime = s.partTime ∧
    ((takeOffer o s).1).cue = s.cue ∧
    ((takeOffer o s).1).arb = s.arb ∧
    ((takeOffer o s).1).pitch = s.pitch ∧
    ((takeOffer o s).1).sched.lateLimitsMs = s.sched.lateLimitsMs ∧
    ((takeOffer o s).1).rail = s.rail ∧
    ((takeOffer o s).1).drive = s.drive ∧
    ((takeOffer o s).1).sect = s.sect ∧
    ((takeOffer o s).1).fault.mask = s.fault.mask ∧
    ((takeOffer o s).1).showUnit = s.showUnit ∧
    ((takeOffer o s).1).serviceUnit = s.serviceUnit ∧
    ((takeOffer o s).1).settings = s.settings ∧
    ((takeOffer o s).1).freeCount = s.freeCount ∧
    ((takeOffer o s).1).pending = s.pending := by
  refine ⟨?_, ?_, ?_, ?_, ?_, ?_, ?_, ?_, ?_, ?_, ?_, ?_, ?_, ?_⟩ <;> (unfold takeOffer; (try dsimp only) <;> (repeat' split) <;> (try simp))

/-- A withdrawal reaches the fire list and the next-pulse slots (04 R82). -/
@[simp] theorem withdraw_keeps (k : SlotId) (s : State) :
    (withdraw k s).partTime = s.partTime ∧
    (withdraw k s).cue = s.cue ∧
    (withdraw k s).arb = s.arb ∧
    (withdraw k s).pitch = s.pitch ∧
    (withdraw k s).sched.lateLimitsMs = s.sched.lateLimitsMs ∧
    (withdraw k s).rail = s.rail ∧
    (withdraw k s).sect = s.sect ∧
    (withdraw k s).fault = s.fault ∧
    (withdraw k s).showUnit = s.showUnit ∧
    (withdraw k s).serviceUnit = s.serviceUnit ∧
    (withdraw k s).settings = s.settings ∧
    (withdraw k s).freeCount = s.freeCount ∧
    (withdraw k s).pending = s.pending := by
  refine ⟨?_, ?_, ?_, ?_, ?_, ?_, ?_, ?_, ?_, ?_, ?_, ?_, ?_⟩ <;> (unfold withdraw; (try dsimp only) <;> (repeat' split) <;> (try simp))

@[simp] theorem removeTests_keeps (s : State) :
    (removeTests s).partTime = s.partTime ∧
    (removeTests s).cue = s.cue ∧
    (removeTests s).arb = s.arb ∧
    (removeTests s).pitch = s.pitch ∧
    (removeTests s).sched.lateLimitsMs = s.sched.lateLimitsMs ∧
    (removeTests s).rail = s.rail ∧
    (removeTests s).sect = s.sect ∧
    (removeTests s).fault = s.fault ∧
    (removeTests s).showUnit = s.showUnit ∧
    (removeTests s).serviceUnit = s.serviceUnit ∧
    (removeTests s).settings = s.settings ∧
    (removeTests s).freeCount = s.freeCount ∧
    (removeTests s).pending = s.pending := by
  refine ⟨?_, ?_, ?_, ?_, ?_, ?_, ?_, ?_, ?_, ?_, ?_, ?_, ?_⟩ <;> (unfold removeTests; (try dsimp only) <;> (repeat' split) <;> (try simp))

@[simp] theorem noticeLow_keeps (k : SlotId) (s : State) :
    (noticeLow k s).partTime = s.partTime ∧
    (noticeLow k s).cue = s.cue ∧
    (noticeLow k s).arb = s.arb ∧
    (noticeLow k s).pitch = s.pitch ∧
    (noticeLow k s).sched = s.sched ∧
    (noticeLow k s).rail = s.rail ∧
    (noticeLow k s).drive = s.drive ∧
    (noticeLow k s).sect = s.sect ∧
    (noticeLow k s).fault.mask = s.fault.mask ∧
    (noticeLow k s).showUnit = s.showUnit ∧
    (noticeLow k s).serviceUnit = s.serviceUnit ∧
    (noticeLow k s).settings = s.settings ∧
    (noticeLow k s).freeCount = s.freeCount ∧
    (noticeLow k s).pending = s.pending := by
  refine ⟨?_, ?_, ?_, ?_, ?_, ?_, ?_, ?_, ?_, ?_, ?_, ?_, ?_, ?_⟩ <;> (unfold noticeLow; (try dsimp only) <;> (repeat' split) <;> (try simp))

@[simp] theorem noticeUnderrun_keeps (k : SlotId) (s : State) :
    (noticeUnderrun k s).partTime = s.partTime ∧
    (noticeUnderrun k s).cue = s.cue ∧
    (noticeUnderrun k s).arb = s.arb ∧
    (noticeUnderrun k s).pitch = s.pitch ∧
    (noticeUnderrun k s).sched = s.sched ∧
    (noticeUnderrun k s).rail = s.rail ∧
    (noticeUnderrun k s).drive = s.drive ∧
    (noticeUnderrun k s).sect = s.sect ∧
    (noticeUnderrun k s).fault.mask = s.fault.mask ∧
    (noticeUnderrun k s).showUnit = s.showUnit ∧
    (noticeUnderrun k s).serviceUnit = s.serviceUnit ∧
    (noticeUnderrun k s).settings = s.settings ∧
    (noticeUnderrun k s).freeCount = s.freeCount ∧
    (noticeUnderrun k s).pending = s.pending := by
  refine ⟨?_, ?_, ?_, ?_, ?_, ?_, ?_, ?_, ?_, ?_, ?_, ?_, ?_, ?_⟩ <;> (unfold noticeUnderrun; (try dsimp only) <;> (repeat' split) <;> (try simp))

@[simp] theorem emptySlot_keeps (k : SlotId) (s : State) :
    (emptySlot k s).partTime = s.partTime ∧
    (emptySlot k s).cue.syncOffset = s.cue.syncOffset ∧
    (emptySlot k s).cue.horizonMs = s.cue.horizonMs ∧
    (emptySlot k s).arb = s.arb ∧
    (emptySlot k s).pitch = s.pitch ∧
    (emptySlot k s).sched.lateLimitsMs = s.sched.lateLimitsMs ∧
    (emptySlot k s).rail = s.rail ∧
    (emptySlot k s).sect = s.sect ∧
    (emptySlot k s).fault = s.fault ∧
    (emptySlot k s).showUnit = s.showUnit ∧
    (emptySlot k s).serviceUnit = s.serviceUnit ∧
    (emptySlot k s).settings = s.settings ∧
    (emptySlot k s).freeCount = s.freeCount ∧
    (emptySlot k s).pending = s.pending := by
  refine ⟨?_, ?_, ?_, ?_, ?_, ?_, ?_, ?_, ?_, ?_, ?_, ?_, ?_, ?_⟩ <;> (unfold emptySlot; (try dsimp only) <;> (repeat' split) <;> (try simp))

@[simp] theorem leaveWaiting_keeps (k : SlotId) (s : State) :
    (leaveWaiting k s).partTime = s.partTime ∧
    (leaveWaiting k s).cue = s.cue ∧
    (leaveWaiting k s).arb.baseMask = s.arb.baseMask ∧
    (leaveWaiting k s).pitch = s.pitch ∧
    (leaveWaiting k s).sched = s.sched ∧
    (leaveWaiting k s).rail = s.rail ∧
    (leaveWaiting k s).drive = s.drive ∧
    (leaveWaiting k s).sect = s.sect ∧
    (leaveWaiting k s).fault = s.fault ∧
    (leaveWaiting k s).showUnit = s.showUnit ∧
    (leaveWaiting k s).serviceUnit = s.serviceUnit ∧
    (leaveWaiting k s).settings = s.settings ∧
    (leaveWaiting k s).freeCount = s.freeCount ∧
    (leaveWaiting k s).pending = s.pending := by
  refine ⟨?_, ?_, ?_, ?_, ?_, ?_, ?_, ?_, ?_, ?_, ?_, ?_, ?_, ?_⟩ <;> (unfold leaveWaiting; (try dsimp only) <;> (repeat' split) <;> (try simp))

@[simp] theorem sound_keeps (k : SlotId) (s : State) :
    (sound k s).partTime = s.partTime ∧
    (sound k s).cue.syncOffset = s.cue.syncOffset ∧
    (sound k s).cue.horizonMs = s.cue.horizonMs ∧
    (sound k s).arb = s.arb ∧
    (sound k s).pitch = s.pitch ∧
    (sound k s).sched = s.sched ∧
    (sound k s).rail = s.rail ∧
    (sound k s).drive = s.drive ∧
    (sound k s).sect.breakHush = s.sect.breakHush ∧
    (sound k s).fault.mask = s.fault.mask ∧
    (sound k s).showUnit = s.showUnit ∧
    (sound k s).serviceUnit = s.serviceUnit ∧
    (sound k s).settings = s.settings ∧
    (sound k s).freeCount = s.freeCount ∧
    (sound k s).pending = s.pending := by
  refine ⟨?_, ?_, ?_, ?_, ?_, ?_, ?_, ?_, ?_, ?_, ?_, ?_, ?_, ?_, ?_⟩ <;> (unfold sound; (try dsimp only) <;> (repeat' split) <;> (try simp))

/-- A start reaches the slot, the waiting set, the section and the notices (02 R31). -/
@[simp] theorem startSlot_keeps (k : SlotId) (s : State) :
    (startSlot k s).partTime = s.partTime ∧
    (startSlot k s).cue.syncOffset = s.cue.syncOffset ∧
    (startSlot k s).cue.horizonMs = s.cue.horizonMs ∧
    (startSlot k s).arb.baseMask = s.arb.baseMask ∧
    (startSlot k s).pitch = s.pitch ∧
    (startSlot k s).sched = s.sched ∧
    (startSlot k s).rail = s.rail ∧
    (startSlot k s).drive = s.drive ∧
    (startSlot k s).sect.breakHush = s.sect.breakHush ∧
    (startSlot k s).fault.mask = s.fault.mask ∧
    (startSlot k s).showUnit = s.showUnit ∧
    (startSlot k s).serviceUnit = s.serviceUnit ∧
    (startSlot k s).settings = s.settings ∧
    (startSlot k s).freeCount = s.freeCount ∧
    (startSlot k s).pending = s.pending := by
  refine ⟨?_, ?_, ?_, ?_, ?_, ?_, ?_, ?_, ?_, ?_, ?_, ?_, ?_, ?_, ?_⟩ <;> (unfold startSlot; (try dsimp only) <;> (repeat' split) <;> (try simp))

@[simp] theorem judgeWaiting_keeps (s : State) :
    (judgeWaiting s).partTime = s.partTime ∧
    (judgeWaiting s).cue.syncOffset = s.cue.syncOffset ∧
    (judgeWaiting s).cue.horizonMs = s.cue.horizonMs ∧
    (judgeWaiting s).arb.baseMask = s.arb.baseMask ∧
    (judgeWaiting s).pitch = s.pitch ∧
    (judgeWaiting s).sched = s.sched ∧
    (judgeWaiting s).rail = s.rail ∧
    (judgeWaiting s).drive = s.drive ∧
    (judgeWaiting s).sect.breakHush = s.sect.breakHush ∧
    (judgeWaiting s).fault.mask = s.fault.mask ∧
    (judgeWaiting s).showUnit = s.showUnit ∧
    (judgeWaiting s).serviceUnit = s.serviceUnit ∧
    (judgeWaiting s).settings = s.settings ∧
    (judgeWaiting s).freeCount = s.freeCount ∧
    (judgeWaiting s).pending = s.pending := by
  refine ⟨?_, ?_, ?_, ?_, ?_, ?_, ?_, ?_, ?_, ?_, ?_, ?_, ?_, ?_, ?_⟩ <;> (unfold judgeWaiting; (try dsimp only) <;> (repeat' split) <;> (try simp))

@[simp] theorem freezeSounding_keeps (k : SlotId) (s : State) :
    ((freezeSounding k s).2).partTime = s.partTime ∧
    ((freezeSounding k s).2).cue.syncOffset = s.cue.syncOffset ∧
    ((freezeSounding k s).2).cue.horizonMs = s.cue.horizonMs ∧
    ((freezeSounding k s).2).arb = s.arb ∧
    ((freezeSounding k s).2).pitch = s.pitch ∧
    ((freezeSounding k s).2).sched.lateLimitsMs = s.sched.lateLimitsMs ∧
    ((freezeSounding k s).2).rail = s.rail ∧
    ((freezeSounding k s).2).sect = s.sect ∧
    ((freezeSounding k s).2).fault = s.fault ∧
    ((freezeSounding k s).2).showUnit = s.showUnit ∧
    ((freezeSounding k s).2).serviceUnit = s.serviceUnit ∧
    ((freezeSounding k s).2).settings = s.settings ∧
    ((freezeSounding k s).2).freeCount = s.freeCount ∧
    ((freezeSounding k s).2).pending = s.pending := by
  refine ⟨?_, ?_, ?_, ?_, ?_, ?_, ?_, ?_, ?_, ?_, ?_, ?_, ?_, ?_⟩ <;> (unfold freezeSounding; (try dsimp only) <;> (repeat' split) <;> (try simp))

@[simp] theorem freezeOccupant_keeps (k : SlotId) (s : State) :
    ((freezeOccupant k s).2).partTime = s.partTime ∧
    ((freezeOccupant k s).2).cue.syncOffset = s.cue.syncOffset ∧
    ((freezeOccupant k s).2).cue.horizonMs = s.cue.horizonMs ∧
    ((freezeOccupant k s).2).arb = s.arb ∧
    ((freezeOccupant k s).2).pitch = s.pitch ∧
    ((freezeOccupant k s).2).sched.lateLimitsMs = s.sched.lateLimitsMs ∧
    ((freezeOccupant k s).2).rail = s.rail ∧
    ((freezeOccupant k s).2).sect = s.sect ∧
    ((freezeOccupant k s).2).fault = s.fault ∧
    ((freezeOccupant k s).2).showUnit = s.showUnit ∧
    ((freezeOccupant k s).2).serviceUnit = s.serviceUnit ∧
    ((freezeOccupant k s).2).settings = s.settings ∧
    ((freezeOccupant k s).2).freeCount = s.freeCount ∧
    ((freezeOccupant k s).2).pending = s.pending := by
  refine ⟨?_, ?_, ?_, ?_, ?_, ?_, ?_, ?_, ?_, ?_, ?_, ?_, ?_, ?_⟩ <;> (unfold freezeOccupant; (try dsimp only) <;> (repeat' split) <;> (try simp))

/-- A preemption reaches neither the section nor the rails (02 R33). -/
@[simp] theorem preempt_keeps (k : SlotId) (s : State) :
    (preempt k s).partTime = s.partTime ∧
    (preempt k s).cue.syncOffset = s.cue.syncOffset ∧
    (preempt k s).cue.horizonMs = s.cue.horizonMs ∧
    (preempt k s).arb.baseMask = s.arb.baseMask ∧
    (preempt k s).pitch = s.pitch ∧
    (preempt k s).sched.lateLimitsMs = s.sched.lateLimitsMs ∧
    (preempt k s).rail = s.rail ∧
    (preempt k s).sect = s.sect ∧
    (preempt k s).fault.mask = s.fault.mask ∧
    (preempt k s).showUnit = s.showUnit ∧
    (preempt k s).serviceUnit = s.serviceUnit ∧
    (preempt k s).settings = s.settings ∧
    (preempt k s).freeCount = s.freeCount ∧
    (preempt k s).pending = s.pending := by
  refine ⟨?_, ?_, ?_, ?_, ?_, ?_, ?_, ?_, ?_, ?_, ?_, ?_, ?_, ?_⟩ <;> (unfold preempt; (try dsimp only) <;> (repeat' split) <;> (try simp))

@[simp] theorem restoreDrive_keeps (r : ContextRecord) (s : State) :
    (restoreDrive r s).partTime = s.partTime ∧
    (restoreDrive r s).cue = s.cue ∧
    (restoreDrive r s).arb = s.arb ∧
    (restoreDrive r s).pitch = s.pitch ∧
    (restoreDrive r s).sched = s.sched ∧
    (restoreDrive r s).rail = s.rail ∧
    (restoreDrive r s).sect = s.sect ∧
    (restoreDrive r s).fault = s.fault ∧
    (restoreDrive r s).showUnit = s.showUnit ∧
    (restoreDrive r s).serviceUnit = s.serviceUnit ∧
    (restoreDrive r s).settings = s.settings ∧
    (restoreDrive r s).freeCount = s.freeCount ∧
    (restoreDrive r s).pending = s.pending := by
  simp [restoreDrive, allFin, List.finRange]

@[simp] theorem resume_keeps (r : ContextRecord) (rest : List ContextRecord) (s : State) :
    (resume r rest s).partTime = s.partTime ∧
    (resume r rest s).cue.syncOffset = s.cue.syncOffset ∧
    (resume r rest s).cue.horizonMs = s.cue.horizonMs ∧
    (resume r rest s).arb.baseMask = s.arb.baseMask ∧
    (resume r rest s).pitch = s.pitch ∧
    (resume r rest s).sched = s.sched ∧
    (resume r rest s).rail = s.rail ∧
    (resume r rest s).sect.breakHush = s.sect.breakHush ∧
    (resume r rest s).fault.mask = s.fault.mask ∧
    (resume r rest s).showUnit = s.showUnit ∧
    (resume r rest s).serviceUnit = s.serviceUnit ∧
    (resume r rest s).settings = s.settings ∧
    (resume r rest s).freeCount = s.freeCount ∧
    (resume r rest s).pending = s.pending := by
  refine ⟨?_, ?_, ?_, ?_, ?_, ?_, ?_, ?_, ?_, ?_, ?_, ?_, ?_, ?_⟩ <;> (unfold resume; (try dsimp only) <;> (repeat' split) <;> (try simp))

/-- The hand-on of the role (02 R35). -/
@[simp] theorem handOn_keeps (s : State) :
    (handOn s).partTime = s.partTime ∧
    (handOn s).cue.syncOffset = s.cue.syncOffset ∧
    (handOn s).cue.horizonMs = s.cue.horizonMs ∧
    (handOn s).arb.baseMask = s.arb.baseMask ∧
    (handOn s).pitch = s.pitch ∧
    (handOn s).sched = s.sched ∧
    (handOn s).rail = s.rail ∧
    (handOn s).sect.breakHush = s.sect.breakHush ∧
    (handOn s).fault.mask = s.fault.mask ∧
    (handOn s).showUnit = s.showUnit ∧
    (handOn s).serviceUnit = s.serviceUnit ∧
    (handOn s).settings = s.settings ∧
    (handOn s).freeCount = s.freeCount ∧
    (handOn s).pending = s.pending := by
  refine ⟨?_, ?_, ?_, ?_, ?_, ?_, ?_, ?_, ?_, ?_, ?_, ?_, ?_, ?_⟩ <;> (unfold handOn; (try dsimp only) <;> (repeat' split) <;> (try simp))

@[simp] theorem completeCue_keeps (k : SlotId) (s : State) :
    (completeCue k s).partTime = s.partTime ∧
    (completeCue k s).cue.syncOffset = s.cue.syncOffset ∧
    (completeCue k s).cue.horizonMs = s.cue.horizonMs ∧
    (completeCue k s).arb.baseMask = s.arb.baseMask ∧
    (completeCue k s).pitch = s.pitch ∧
    (completeCue k s).sched.lateLimitsMs = s.sched.lateLimitsMs ∧
    (completeCue k s).rail = s.rail ∧
    (completeCue k s).sect.breakHush = s.sect.breakHush ∧
    (completeCue k s).fault.mask = s.fault.mask ∧
    (completeCue k s).showUnit = s.showUnit ∧
    (completeCue k s).serviceUnit = s.serviceUnit ∧
    (completeCue k s).settings = s.settings ∧
    (completeCue k s).freeCount = s.freeCount ∧
    (completeCue k s).pending = s.pending := by
  refine ⟨?_, ?_, ?_, ?_, ?_, ?_, ?_, ?_, ?_, ?_, ?_, ?_, ?_, ?_⟩ <;> (unfold completeCue; (try dsimp only) <;> (repeat' split) <;> (try simp))

@[simp] theorem actMark_keeps (e : EntryRef) (n : Nat) (t : Time) (s : State) :
    (actMark e n t s).partTime = s.partTime ∧
    (actMark e n t s).cue = s.cue ∧
    (actMark e n t s).arb = s.arb ∧
    (actMark e n t s).pitch = s.pitch ∧
    (actMark e n t s).sched.lateLimitsMs = s.sched.lateLimitsMs ∧
    (actMark e n t s).rail = s.rail ∧
    (actMark e n t s).drive = s.drive ∧
    (actMark e n t s).sect = s.sect ∧
    (actMark e n t s).fault.mask = s.fault.mask ∧
    (actMark e n t s).showUnit = s.showUnit ∧
    (actMark e n t s).serviceUnit = s.serviceUnit ∧
    (actMark e n t s).settings = s.settings ∧
    (actMark e n t s).freeCount = s.freeCount ∧
    (actMark e n t s).pending = s.pending := by
  refine ⟨?_, ?_, ?_, ?_, ?_, ?_, ?_, ?_, ?_, ?_, ?_, ?_, ?_, ?_⟩ <;> (unfold actMark; (try dsimp only) <;> (repeat' split) <;> (try simp))

/-- A firing's arrival (04 R74, R78). -/
@[simp] theorem arrive_keeps (f : Firing) (s : State) :
    (arrive f s).partTime = s.partTime ∧
    (arrive f s).cue.syncOffset = s.cue.syncOffset ∧
    (arrive f s).cue.horizonMs = s.cue.horizonMs ∧
    (arrive f s).arb.baseMask = s.arb.baseMask ∧
    (arrive f s).pitch = s.pitch ∧
    (arrive f s).sched.lateLimitsMs = s.sched.lateLimitsMs ∧
    (arrive f s).rail = s.rail ∧
    (arrive f s).sect.breakHush = s.sect.breakHush ∧
    (arrive f s).fault.mask = s.fault.mask ∧
    (arrive f s).showUnit = s.showUnit ∧
    (arrive f s).serviceUnit = s.serviceUnit ∧
    (arrive f s).settings = s.settings ∧
    (arrive f s).freeCount = s.freeCount ∧
    (arrive f s).pending = s.pending := by
  refine ⟨?_, ?_, ?_, ?_, ?_, ?_, ?_, ?_, ?_, ?_, ?_, ?_, ?_, ?_⟩ <;> (unfold arrive; (try dsimp only) <;> (repeat' split) <;> (try simp))

/-- Firings that arrive in turn keep what an arrival keeps. -/
@[simp] theorem arriveInTurn_keeps (fs : List Firing) (s : State) :
    (arriveInTurn fs s).partTime = s.partTime ∧
    (arriveInTurn fs s).cue.syncOffset = s.cue.syncOffset ∧
    (arriveInTurn fs s).cue.horizonMs = s.cue.horizonMs ∧
    (arriveInTurn fs s).arb.baseMask = s.arb.baseMask ∧
    (arriveInTurn fs s).pitch = s.pitch ∧
    (arriveInTurn fs s).sched.lateLimitsMs = s.sched.lateLimitsMs ∧
    (arriveInTurn fs s).rail = s.rail ∧
    (arriveInTurn fs s).sect.breakHush = s.sect.breakHush ∧
    (arriveInTurn fs s).fault.mask = s.fault.mask ∧
    (arriveInTurn fs s).showUnit = s.showUnit ∧
    (arriveInTurn fs s).serviceUnit = s.serviceUnit ∧
    (arriveInTurn fs s).settings = s.settings ∧
    (arriveInTurn fs s).freeCount = s.freeCount ∧
    (arriveInTurn fs s).pending = s.pending := by
  induction fs generalizing s with
  | nil => simp [arriveInTurn]
  | cons f rest ih =>
    unfold arriveInTurn
    split
    · simpa using ih (arrive f s)
    · exact ih s

@[simp] theorem arriveIfReached_keeps (p : Option Firing) (s : State) :
    (arriveIfReached p s).partTime = s.partTime ∧
    (arriveIfReached p s).cue.syncOffset = s.cue.syncOffset ∧
    (arriveIfReached p s).cue.horizonMs = s.cue.horizonMs ∧
    (arriveIfReached p s).arb.baseMask = s.arb.baseMask ∧
    (arriveIfReached p s).pitch = s.pitch ∧
    (arriveIfReached p s).sched.lateLimitsMs = s.sched.lateLimitsMs ∧
    (arriveIfReached p s).rail = s.rail ∧
    (arriveIfReached p s).sect.breakHush = s.sect.breakHush ∧
    (arriveIfReached p s).fault.mask = s.fault.mask ∧
    (arriveIfReached p s).showUnit = s.showUnit ∧
    (arriveIfReached p s).serviceUnit = s.serviceUnit ∧
    (arriveIfReached p s).settings = s.settings ∧
    (arriveIfReached p s).freeCount = s.freeCount ∧
    (arriveIfReached p s).pending = s.pending := by
  refine ⟨?_, ?_, ?_, ?_, ?_, ?_, ?_, ?_, ?_, ?_, ?_, ?_, ?_, ?_⟩ <;> (unfold arriveIfReached; (try dsimp only) <;> (repeat' split) <;> (try simp))

@[simp] theorem commitNote_keeps (ref : EntryRef) (p v : Nat) (c : Fin 8) (due : Time) (x : Slot) (s : State) :
    ((commitNote ref p v c due x s).1).partTime = s.partTime ∧
    ((commitNote ref p v c due x s).1).cue = s.cue ∧
    ((commitNote ref p v c due x s).1).arb = s.arb ∧
    ((commitNote ref p v c due x s).1).pitch = s.pitch ∧
    ((commitNote ref p v c due x s).1).sched.lateLimitsMs = s.sched.lateLimitsMs ∧
    ((commitNote ref p v c due x s).1).rail = s.rail ∧
    ((commitNote ref p v c due x s).1).drive = s.drive ∧
    ((commitNote ref p v c due x s).1).sect = s.sect ∧
    ((commitNote ref p v c due x s).1).fault.mask = s.fault.mask ∧
    ((commitNote ref p v c due x s).1).showUnit = s.showUnit ∧
    ((commitNote ref p v c due x s).1).serviceUnit = s.serviceUnit ∧
    ((commitNote ref p v c due x s).1).settings = s.settings ∧
    ((commitNote ref p v c due x s).1).freeCount = s.freeCount ∧
    ((commitNote ref p v c due x s).1).pending = s.pending := by
  refine ⟨?_, ?_, ?_, ?_, ?_, ?_, ?_, ?_, ?_, ?_, ?_, ?_, ?_, ?_⟩ <;> (unfold commitNote; (try dsimp only) <;> (repeat' split) <;> (try simp))

@[simp] theorem commitActing_keeps (k : FiringKind) (due : Time) (s : State) :
    ((commitActing k due s).1).partTime = s.partTime ∧
    ((commitActing k due s).1).cue = s.cue ∧
    ((commitActing k due s).1).arb = s.arb ∧
    ((commitActing k due s).1).pitch = s.pitch ∧
    ((commitActing k due s).1).sched.lateLimitsMs = s.sched.lateLimitsMs ∧
    ((commitActing k due s).1).rail = s.rail ∧
    ((commitActing k due s).1).drive = s.drive ∧
    ((commitActing k due s).1).sect = s.sect ∧
    ((commitActing k due s).1).fault = s.fault ∧
    ((commitActing k due s).1).showUnit = s.showUnit ∧
    ((commitActing k due s).1).serviceUnit = s.serviceUnit ∧
    ((commitActing k due s).1).settings = s.settings ∧
    ((commitActing k due s).1).freeCount = s.freeCount ∧
    ((commitActing k due s).1).pending = s.pending := by
  refine ⟨?_, ?_, ?_, ?_, ?_, ?_, ?_, ?_, ?_, ?_, ?_, ?_, ?_, ?_⟩ <;> (unfold commitActing; (try dsimp only) <;> (repeat' split) <;> (try simp))

@[simp] theorem commitEffect_keeps (k : SlotId) (e : Event) (due : Time) (s : State) :
    ((commitEffect k e due s).1).partTime = s.partTime ∧
    ((commitEffect k e due s).1).cue.syncOffset = s.cue.syncOffset ∧
    ((commitEffect k e due s).1).cue.horizonMs = s.cue.horizonMs ∧
    ((commitEffect k e due s).1).arb = s.arb ∧
    ((commitEffect k e due s).1).pitch = s.pitch ∧
    ((commitEffect k e due s).1).sched.lateLimitsMs = s.sched.lateLimitsMs ∧
    ((commitEffect k e due s).1).rail = s.rail ∧
    ((commitEffect k e due s).1).drive = s.drive ∧
    ((commitEffect k e due s).1).sect = s.sect ∧
    ((commitEffect k e due s).1).fault.mask = s.fault.mask ∧
    ((commitEffect k e due s).1).showUnit = s.showUnit ∧
    ((commitEffect k e due s).1).serviceUnit = s.serviceUnit ∧
    ((commitEffect k e due s).1).settings = s.settings ∧
    ((commitEffect k e due s).1).freeCount = s.freeCount ∧
    ((commitEffect k e due s).1).pending = s.pending := by
  refine ⟨?_, ?_, ?_, ?_, ?_, ?_, ?_, ?_, ?_, ?_, ?_, ?_, ?_, ?_, ?_⟩ <;> (unfold commitEffect; (try dsimp only) <;> (repeat' split) <;> (try simp))

/-- A commit (01 R19). -/
@[simp] theorem commitEntry_keeps (k : SlotId) (e : Event) (due : Time) (s : State) :
    (commitEntry k e due s).partTime = s.partTime ∧
    (commitEntry k e due s).cue.syncOffset = s.cue.syncOffset ∧
    (commitEntry k e due s).cue.horizonMs = s.cue.horizonMs ∧
    (commitEntry k e due s).arb.baseMask = s.arb.baseMask ∧
    (commitEntry k e due s).pitch = s.pitch ∧
    (commitEntry k e due s).sched.lateLimitsMs = s.sched.lateLimitsMs ∧
    (commitEntry k e due s).rail = s.rail ∧
    (commitEntry k e due s).sect.breakHush = s.sect.breakHush ∧
    (commitEntry k e due s).fault.mask = s.fault.mask ∧
    (commitEntry k e due s).showUnit = s.showUnit ∧
    (commitEntry k e due s).serviceUnit = s.serviceUnit ∧
    (commitEntry k e due s).settings = s.settings ∧
    (commitEntry k e due s).freeCount = s.freeCount ∧
    (commitEntry k e due s).pending = s.pending := by
  refine ⟨?_, ?_, ?_, ?_, ?_, ?_, ?_, ?_, ?_, ?_, ?_, ?_, ?_, ?_⟩ <;> (unfold commitEntry; (try dsimp only) <;> (repeat' split) <;> (try simp))

@[simp] theorem commitHead_keeps (k : SlotId) (s : State) :
    (commitHead k s).partTime = s.partTime ∧
    (commitHead k s).cue.syncOffset = s.cue.syncOffset ∧
    (commitHead k s).cue.horizonMs = s.cue.horizonMs ∧
    (commitHead k s).arb.baseMask = s.arb.baseMask ∧
    (commitHead k s).pitch = s.pitch ∧
    (commitHead k s).sched.lateLimitsMs = s.sched.lateLimitsMs ∧
    (commitHead k s).rail = s.rail ∧
    (commitHead k s).sect.breakHush = s.sect.breakHush ∧
    (commitHead k s).fault.mask = s.fault.mask ∧
    (commitHead k s).showUnit = s.showUnit ∧
    (commitHead k s).serviceUnit = s.serviceUnit ∧
    (commitHead k s).settings = s.settings ∧
    (commitHead k s).freeCount = s.freeCount ∧
    (commitHead k s).pending = s.pending := by
  refine ⟨?_, ?_, ?_, ?_, ?_, ?_, ?_, ?_, ?_, ?_, ?_, ?_, ?_, ?_⟩ <;> (unfold commitHead; (try dsimp only) <;> (repeat' split) <;> (try simp))

@[simp] theorem commitWhileReady_keeps (n : Nat) (s : State) :
    (commitWhileReady n s).partTime = s.partTime ∧
    (commitWhileReady n s).cue.syncOffset = s.cue.syncOffset ∧
    (commitWhileReady n s).cue.horizonMs = s.cue.horizonMs ∧
    (commitWhileReady n s).arb.baseMask = s.arb.baseMask ∧
    (commitWhileReady n s).pitch = s.pitch ∧
    (commitWhileReady n s).sched.lateLimitsMs = s.sched.lateLimitsMs ∧
    (commitWhileReady n s).rail = s.rail ∧
    (commitWhileReady n s).sect.breakHush = s.sect.breakHush ∧
    (commitWhileReady n s).fault.mask = s.fault.mask ∧
    (commitWhileReady n s).showUnit = s.showUnit ∧
    (commitWhileReady n s).serviceUnit = s.serviceUnit ∧
    (commitWhileReady n s).settings = s.settings ∧
    (commitWhileReady n s).freeCount = s.freeCount ∧
    (commitWhileReady n s).pending = s.pending := by
  induction n generalizing s with
  | zero => simp [commitWhileReady]
  | succ n ih =>
    unfold commitWhileReady; split
    · simp [ih]
    · simp

@[simp] theorem commitsAfterLeaving_keeps (b : State) (s : State) :
    (commitsAfterLeaving b s).partTime = s.partTime ∧
    (commitsAfterLeaving b s).cue.syncOffset = s.cue.syncOffset ∧
    (commitsAfterLeaving b s).cue.horizonMs = s.cue.horizonMs ∧
    (commitsAfterLeaving b s).arb.baseMask = s.arb.baseMask ∧
    (commitsAfterLeaving b s).pitch = s.pitch ∧
    (commitsAfterLeaving b s).sched.lateLimitsMs = s.sched.lateLimitsMs ∧
    (commitsAfterLeaving b s).rail = s.rail ∧
    (commitsAfterLeaving b s).sect.breakHush = s.sect.breakHush ∧
    (commitsAfterLeaving b s).fault.mask = s.fault.mask ∧
    (commitsAfterLeaving b s).showUnit = s.showUnit ∧
    (commitsAfterLeaving b s).serviceUnit = s.serviceUnit ∧
    (commitsAfterLeaving b s).settings = s.settings ∧
    (commitsAfterLeaving b s).freeCount = s.freeCount ∧
    (commitsAfterLeaving b s).pending = s.pending := by
  refine ⟨?_, ?_, ?_, ?_, ?_, ?_, ?_, ?_, ?_, ?_, ?_, ?_, ?_, ?_⟩ <;> (unfold commitsAfterLeaving; (try dsimp only) <;> (repeat' split) <;> (try simp))

@[simp] theorem hushCues_keeps (s : State) :
    (hushCues s).partTime = s.partTime ∧
    (hushCues s).cue.syncOffset = s.cue.syncOffset ∧
    (hushCues s).cue.horizonMs = s.cue.horizonMs ∧
    (hushCues s).arb.baseMask = s.arb.baseMask ∧
    (hushCues s).pitch = s.pitch ∧
    (hushCues s).sched = s.sched ∧
    (hushCues s).rail = s.rail ∧
    (hushCues s).drive = s.drive ∧
    (hushCues s).sect = s.sect ∧
    (hushCues s).fault = s.fault ∧
    (hushCues s).showUnit = s.showUnit ∧
    (hushCues s).serviceUnit = s.serviceUnit ∧
    (hushCues s).settings = s.settings ∧
    (hushCues s).freeCount = s.freeCount ∧
    (hushCues s).pending = s.pending := by
  refine ⟨?_, ?_, ?_, ?_, ?_, ?_, ?_, ?_, ?_, ?_, ?_, ?_, ?_, ?_, ?_⟩ <;> (unfold hushCues; (try dsimp only) <;> (repeat' split) <;> (try simp))

/-- The hush start actions (07 R132). -/
@[simp] theorem hushStart_keeps (s : State) :
    (hushStart s).partTime = s.partTime ∧
    (hushStart s).cue.syncOffset = s.cue.syncOffset ∧
    (hushStart s).cue.horizonMs = s.cue.horizonMs ∧
    (hushStart s).arb.baseMask = s.arb.baseMask ∧
    (hushStart s).pitch = s.pitch ∧
    (hushStart s).sched.lateLimitsMs = s.sched.lateLimitsMs ∧
    (hushStart s).rail = s.rail ∧
    (hushStart s).sect = s.sect ∧
    (hushStart s).fault = s.fault ∧
    (hushStart s).showUnit = s.showUnit ∧
    (hushStart s).serviceUnit = s.serviceUnit ∧
    (hushStart s).settings = s.settings ∧
    (hushStart s).freeCount = s.freeCount ∧
    (hushStart s).pending = s.pending := by
  refine ⟨?_, ?_, ?_, ?_, ?_, ?_, ?_, ?_, ?_, ?_, ?_, ?_, ?_, ?_⟩ <;> (unfold hushStart; (try dsimp only) <;> (repeat' split) <;> (try simp))

@[simp] theorem completeHush_keeps (s : State) :
    (completeHush s).partTime = s.partTime ∧
    (completeHush s).cue = s.cue ∧
    (completeHush s).arb = s.arb ∧
    (completeHush s).pitch = s.pitch ∧
    (completeHush s).sched = s.sched ∧
    (completeHush s).rail = s.rail ∧
    (completeHush s).drive = s.drive ∧
    (completeHush s).sect.breakHush = s.sect.breakHush ∧
    (completeHush s).fault.mask = s.fault.mask ∧
    (completeHush s).showUnit = s.showUnit ∧
    (completeHush s).serviceUnit = s.serviceUnit ∧
    (completeHush s).settings = s.settings ∧
    (completeHush s).freeCount = s.freeCount ∧
    (completeHush s).pending = s.pending := by
  refine ⟨?_, ?_, ?_, ?_, ?_, ?_, ?_, ?_, ?_, ?_, ?_, ?_, ?_, ?_⟩ <;> (unfold completeHush; (try dsimp only) <;> (repeat' split) <;> (try simp))

@[simp] theorem completeIfDone_keeps (s : State) :
    (completeIfDone s).partTime = s.partTime ∧
    (completeIfDone s).cue = s.cue ∧
    (completeIfDone s).arb = s.arb ∧
    (completeIfDone s).pitch = s.pitch ∧
    (completeIfDone s).sched = s.sched ∧
    (completeIfDone s).rail = s.rail ∧
    (completeIfDone s).drive = s.drive ∧
    (completeIfDone s).sect.breakHush = s.sect.breakHush ∧
    (completeIfDone s).fault.mask = s.fault.mask ∧
    (completeIfDone s).showUnit = s.showUnit ∧
    (completeIfDone s).serviceUnit = s.serviceUnit ∧
    (completeIfDone s).settings = s.settings ∧
    (completeIfDone s).freeCount = s.freeCount ∧
    (completeIfDone s).pending = s.pending := by
  refine ⟨?_, ?_, ?_, ?_, ?_, ?_, ?_, ?_, ?_, ?_, ?_, ?_, ?_, ?_⟩ <;> (unfold completeIfDone; (try dsimp only) <;> (repeat' split) <;> (try simp))

/-- A hush leaves the rails, the pitch map, the links and the clock alone (07 R132). -/
@[simp] theorem beginHush_keeps (t : HushTarget) (h : Bool) (s : State) :
    (beginHush t h s).partTime = s.partTime ∧
    (beginHush t h s).cue.syncOffset = s.cue.syncOffset ∧
    (beginHush t h s).cue.horizonMs = s.cue.horizonMs ∧
    (beginHush t h s).arb.baseMask = s.arb.baseMask ∧
    (beginHush t h s).pitch = s.pitch ∧
    (beginHush t h s).sched.lateLimitsMs = s.sched.lateLimitsMs ∧
    (beginHush t h s).rail = s.rail ∧
    (beginHush t h s).sect.breakHush = s.sect.breakHush ∧
    (beginHush t h s).fault.mask = s.fault.mask ∧
    (beginHush t h s).showUnit = s.showUnit ∧
    (beginHush t h s).serviceUnit = s.serviceUnit ∧
    (beginHush t h s).settings = s.settings ∧
    (beginHush t h s).freeCount = s.freeCount ∧
    (beginHush t h s).pending = s.pending := by
  refine ⟨?_, ?_, ?_, ?_, ?_, ?_, ?_, ?_, ?_, ?_, ?_, ?_, ?_, ?_⟩ <;> (unfold beginHush; (try dsimp only) <;> (repeat' split) <;> (try simp))

@[simp] theorem causeHush_keeps (s : State) :
    (causeHush s).partTime = s.partTime ∧
    (causeHush s).cue.syncOffset = s.cue.syncOffset ∧
    (causeHush s).cue.horizonMs = s.cue.horizonMs ∧
    (causeHush s).arb.baseMask = s.arb.baseMask ∧
    (causeHush s).pitch = s.pitch ∧
    (causeHush s).sched.lateLimitsMs = s.sched.lateLimitsMs ∧
    (causeHush s).rail = s.rail ∧
    (causeHush s).sect.breakHush = s.sect.breakHush ∧
    (causeHush s).fault.mask = s.fault.mask ∧
    (causeHush s).showUnit = s.showUnit ∧
    (causeHush s).serviceUnit = s.serviceUnit ∧
    (causeHush s).settings = s.settings ∧
    (causeHush s).freeCount = s.freeCount ∧
    (causeHush s).pending = s.pending := by
  refine ⟨?_, ?_, ?_, ?_, ?_, ?_, ?_, ?_, ?_, ?_, ?_, ?_, ?_, ?_⟩ <;> (unfold causeHush; (try dsimp only) <;> (repeat' split) <;> (try simp))

@[simp] theorem fatalCause_keeps (s : State) :
    (fatalCause s).partTime = s.partTime ∧
    (fatalCause s).cue.syncOffset = s.cue.syncOffset ∧
    (fatalCause s).cue.horizonMs = s.cue.horizonMs ∧
    (fatalCause s).arb.baseMask = s.arb.baseMask ∧
    (fatalCause s).pitch = s.pitch ∧
    (fatalCause s).sched.lateLimitsMs = s.sched.lateLimitsMs ∧
    (fatalCause s).rail = s.rail ∧
    (fatalCause s).sect.breakHush = s.sect.breakHush ∧
    (fatalCause s).fault.mask = s.fault.mask ∧
    (fatalCause s).showUnit = s.showUnit ∧
    (fatalCause s).serviceUnit = s.serviceUnit ∧
    (fatalCause s).settings = s.settings ∧
    (fatalCause s).freeCount = s.freeCount ∧
    (fatalCause s).pending = s.pending := by
  refine ⟨?_, ?_, ?_, ?_, ?_, ?_, ?_, ?_, ?_, ?_, ?_, ?_, ?_, ?_⟩ <;> (unfold fatalCause; (try dsimp only) <;> (repeat' split) <;> (try simp))

@[simp] theorem forcedTake_keeps (s : State) :
    (forcedTake s).partTime = s.partTime ∧
    (forcedTake s).cue.syncOffset = s.cue.syncOffset ∧
    (forcedTake s).cue.horizonMs = s.cue.horizonMs ∧
    (forcedTake s).arb.baseMask = s.arb.baseMask ∧
    (forcedTake s).pitch = s.pitch ∧
    (forcedTake s).sched.lateLimitsMs = s.sched.lateLimitsMs ∧
    (forcedTake s).rail = s.rail ∧
    (forcedTake s).sect.breakHush = s.sect.breakHush ∧
    (forcedTake s).fault.mask = s.fault.mask ∧
    (forcedTake s).showUnit = s.showUnit ∧
    (forcedTake s).serviceUnit = s.serviceUnit ∧
    (forcedTake s).settings = s.settings ∧
    (forcedTake s).freeCount = s.freeCount ∧
    (forcedTake s).pending = s.pending := by
  refine ⟨?_, ?_, ?_, ?_, ?_, ?_, ?_, ?_, ?_, ?_, ?_, ?_, ?_, ?_⟩ <;> (unfold forcedTake; (try dsimp only) <;> (repeat' split) <;> (try simp))

@[simp] theorem loseTakeover_keeps (s : State) :
    (loseTakeover s).partTime = s.partTime ∧
    (loseTakeover s).cue = s.cue ∧
    (loseTakeover s).arb = s.arb ∧
    (loseTakeover s).pitch = s.pitch ∧
    (loseTakeover s).sched = s.sched ∧
    (loseTakeover s).rail = s.rail ∧
    (loseTakeover s).drive = s.drive ∧
    (loseTakeover s).sect.breakHush = s.sect.breakHush ∧
    (loseTakeover s).fault.mask = s.fault.mask ∧
    (loseTakeover s).showUnit = s.showUnit ∧
    (loseTakeover s).serviceUnit = s.serviceUnit ∧
    (loseTakeover s).settings = s.settings ∧
    (loseTakeover s).freeCount = s.freeCount ∧
    (loseTakeover s).pending = s.pending := by
  refine ⟨?_, ?_, ?_, ?_, ?_, ?_, ?_, ?_, ?_, ?_, ?_, ?_, ?_, ?_⟩ <;> (unfold loseTakeover; (try dsimp only) <;> (repeat' split) <;> (try simp))

@[simp] theorem enterService_keeps (s : State) :
    (enterService s).partTime = s.partTime ∧
    (enterService s).cue = s.cue ∧
    (enterService s).arb = s.arb ∧
    (enterService s).pitch = s.pitch ∧
    (enterService s).sched = s.sched ∧
    (enterService s).rail = s.rail ∧
    (enterService s).drive = s.drive ∧
    (enterService s).sect.breakHush = s.sect.breakHush ∧
    (enterService s).fault.mask = s.fault.mask ∧
    (enterService s).showUnit = s.showUnit ∧
    (enterService s).serviceUnit = s.serviceUnit ∧
    (enterService s).settings = s.settings ∧
    (enterService s).freeCount = s.freeCount ∧
    (enterService s).pending = s.pending := by
  refine ⟨?_, ?_, ?_, ?_, ?_, ?_, ?_, ?_, ?_, ?_, ?_, ?_, ?_, ?_⟩ <;> (unfold enterService; (try dsimp only) <;> (repeat' split) <;> (try simp))

@[simp] theorem deliverFatal_keeps (s : State) :
    (deliverFatal s).partTime = s.partTime ∧
    (deliverFatal s).cue.syncOffset = s.cue.syncOffset ∧
    (deliverFatal s).cue.horizonMs = s.cue.horizonMs ∧
    (deliverFatal s).arb.baseMask = s.arb.baseMask ∧
    (deliverFatal s).pitch = s.pitch ∧
    (deliverFatal s).sched.lateLimitsMs = s.sched.lateLimitsMs ∧
    (deliverFatal s).rail = s.rail ∧
    (deliverFatal s).sect.breakHush = s.sect.breakHush ∧
    (deliverFatal s).fault.mask = s.fault.mask ∧
    (deliverFatal s).showUnit = s.showUnit ∧
    (deliverFatal s).serviceUnit = s.serviceUnit ∧
    (deliverFatal s).settings = s.settings ∧
    (deliverFatal s).freeCount = s.freeCount ∧
    (deliverFatal s).pending = s.pending := by
  refine ⟨?_, ?_, ?_, ?_, ?_, ?_, ?_, ?_, ?_, ?_, ?_, ?_, ?_, ?_⟩ <;> (unfold deliverFatal; (try dsimp only) <;> (repeat' split) <;> (try simp))

/-- What ends an event (08 R149, 04 R84). -/
@[simp] theorem settle_keeps (b : State) (s : State) :
    (settle b s).partTime = s.partTime ∧
    (settle b s).cue.syncOffset = s.cue.syncOffset ∧
    (settle b s).cue.horizonMs = s.cue.horizonMs ∧
    (settle b s).arb.baseMask = s.arb.baseMask ∧
    (settle b s).pitch = s.pitch ∧
    (settle b s).sched.lateLimitsMs = s.sched.lateLimitsMs ∧
    (settle b s).rail = s.rail ∧
    (settle b s).sect.breakHush = s.sect.breakHush ∧
    (settle b s).fault.mask = s.fault.mask ∧
    (settle b s).showUnit = s.showUnit ∧
    (settle b s).serviceUnit = s.serviceUnit ∧
    (settle b s).settings = s.settings ∧
    (settle b s).freeCount = s.freeCount ∧
    (settle b s).pending = s.pending := by
  refine ⟨?_, ?_, ?_, ?_, ?_, ?_, ?_, ?_, ?_, ?_, ?_, ?_, ?_, ?_⟩ <;> (unfold settle; (try dsimp only) <;> (repeat' split) <;> (try simp))

end Sys2Proof.Machine
end

