-- ==== Sys2Proof/Laws/Requests.lean ====
section
/-! SUPPORT. What a request does around its own rule: the frame presented, the reply placed, the end of the event.
A later proof about a request cites `takeRequest_offered` and computes the rule itself. -/

namespace Sys2Proof.Machine

set_option linter.all false

open Safety

/-! ### The end of an event -/

theorem deliverFatal_of_clear (s : State) (h : s.fault.fatalDue = false) : deliverFatal s = s := by
  simp [deliverFatal, h]

theorem waitsOnSpace_full (s : State) (h : waitsOnSpace s = true) : s.fireListFull = true := by
  unfold waitsOnSpace at h
  split at h
  · split at h
    · simp_all
    · simp at h
  · simp at h

/-- No firing left: no commit is let through (04 R84). -/
theorem commitsAfterLeaving_of_length (before after : State)
    (h : after.sched.fireList.length = before.sched.fireList.length) :
    commitsAfterLeaving before after = after := by
  unfold commitsAfterLeaving
  split
  · next hw =>
    simp only [Bool.and_eq_true] at hw
    have := waitsOnSpace_full _ hw.1
    simp only [State.fireListFull, Bool.not_eq_true', decide_eq_false_iff_not, decide_eq_true_eq] at hw this
    omega
  · rfl

theorem commitWhileReady_of_none (n : Nat) (s : State) (h : commitReady s = none) : commitWhileReady n s = s := by
  cases n with
  | zero => rfl
  | succ n => simp [commitWhileReady, h]

theorem commitWhileReady_of_some (n : Nat) (s : State) (k : SlotId) (h : commitReady s = some k) :
    commitWhileReady (n + 1) s = commitWhileReady n (commitHead k s) := by
  simp [commitWhileReady, h]

/-- No head entry is ready: no commit is let through. -/
theorem commitsAfterLeaving_of_notReady (before after : State) (h : commitReady after = none) :
    commitsAfterLeaving before after = after := by
  unfold commitsAfterLeaving
  split
  · exact commitWhileReady_of_none _ _ h
  · rfl

theorem commitReady_of_noSounding (s : State) (h : slotIn .sounding s = none) : commitReady s = none := by
  simp [commitReady, h]

/-- An event that leaves the list's length and no fatal cause is its body. -/
theorem settle_of_quiet (before after : State)
    (hl : after.sched.fireList.length = before.sched.fireList.length) (hf : after.fault.fatalDue = false) :
    settle before after = after := by
  rw [settle, commitsAfterLeaving_of_length _ _ hl, deliverFatal_of_clear _ hf]

/-- An event after which no head entry is ready, and which leaves no fatal cause, is its body. -/
theorem settle_of_notReady (before after : State) (hr : commitReady after = none)
    (hf : after.fault.fatalDue = false) : settle before after = after := by
  rw [settle, commitsAfterLeaving_of_notReady _ _ hr, deliverFatal_of_clear _ hf]

/-! ### The frame -/

@[simp] theorem restartTimer_state (now : Time) (r : SectionRecord) : (r.restartTimer now).state = r.state := by
  unfold SectionRecord.restartTimer; split <;> rfl

@[simp] theorem notePendantFrame_keeps (l : Link) (s : State) :
    (notePendantFrame l s).partTime = s.partTime ∧ (notePendantFrame l s).cue = s.cue ∧
    (notePendantFrame l s).arb = s.arb ∧ (notePendantFrame l s).pitch = s.pitch ∧
    (notePendantFrame l s).sched = s.sched ∧ (notePendantFrame l s).rail = s.rail ∧
    (notePendantFrame l s).drive = s.drive ∧ (notePendantFrame l s).sect.state = s.sect.state ∧
    (notePendantFrame l s).fault = s.fault ∧ (notePendantFrame l s).showUnit = s.showUnit ∧
    (notePendantFrame l s).serviceUnit = s.serviceUnit ∧ (notePendantFrame l s).settings = s.settings ∧
    (notePendantFrame l s).freeCount = s.freeCount ∧ (notePendantFrame l s).pending = s.pending := by
  cases l <;> simp [notePendantFrame]

/-- Presenting a frame frees its buffer, or accepts it, and touches nothing else (09 R173, 07 R140). -/
theorem presentFrame_keeps {kind : Byte} {f : Frame} {s t : State} {c : Time}
    (h : presentFrame kind f s = some (c, t)) :
    t.partTime = s.partTime ∧ t.cue = s.cue ∧ t.arb = s.arb ∧ t.pitch = s.pitch ∧ t.sched = s.sched ∧
    t.rail = s.rail ∧ t.drive = s.drive ∧ t.sect.state = s.sect.state ∧ t.fault = s.fault ∧
    t.settings = s.settings ∧ t.freeCount = s.freeCount ∧ t.pending = s.pending ∧
    (t.unit f.link).shifter = (s.unit f.link).shifter ∧ (t.unit f.link).replySlot = (s.unit f.link).replySlot := by
  unfold presentFrame at h
  split at h
  · split at h
    · simp only [Option.some.injEq, Prod.mk.injEq] at h
      obtain ⟨-, rfl⟩ := h
      simp [LinkUnit.free]
    · exact absurd h (by simp)
  · split at h
    · simp only [Option.some.injEq, Prod.mk.injEq] at h
      obtain ⟨-, rfl⟩ := h
      refine ⟨?_, ?_, ?_, ?_, ?_, ?_, ?_, ?_, ?_, ?_, ?_, ?_, ?_, ?_⟩ <;>
        first
          | simp
          | (cases hl : f.link <;> simp [State.unit, notePendantFrame])
    · exact absurd h (by simp)

/-! ### The reply -/

/-- A reply reaches its link and the fault monitor only (09 R176). -/
@[simp] theorem placeReply_keeps (l : Link) (r : ReplyFrame) (s : State) :
    (placeReply l r s).partTime = s.partTime ∧ (placeReply l r s).cue = s.cue ∧
    (placeReply l r s).arb = s.arb ∧ (placeReply l r s).pitch = s.pitch ∧
    (placeReply l r s).sched = s.sched ∧ (placeReply l r s).rail = s.rail ∧
    (placeReply l r s).drive = s.drive ∧ (placeReply l r s).sect = s.sect ∧
    (placeReply l r s).settings = s.settings ∧ (placeReply l r s).freeCount = s.freeCount ∧
    (placeReply l r s).pending = s.pending := by
  unfold placeReply
  cases hs : (s.unit l).shifter <;> cases hr : (s.unit l).replySlot <;> simp

/-! ### The request -/

/-- The state after the frame is presented agrees with the state before it but for the buffers. -/
theorem offered_keeps {kind : Byte} {f : Frame} {s t : State} (h : Offered kind f s t) :
    t.partTime = s.partTime ∧ t.cue = s.cue ∧ t.arb = s.arb ∧ t.pitch = s.pitch ∧ t.sched = s.sched ∧
    t.rail = s.rail ∧ t.drive = s.drive ∧ t.sect.state = s.sect.state ∧ t.fault = s.fault ∧
    t.settings = s.settings ∧ t.freeCount = s.freeCount ∧ t.pending = s.pending ∧
    (t.unit f.link).shifter = (s.unit f.link).shifter ∧ (t.unit f.link).replySlot = (s.unit f.link).replySlot := by
  obtain ⟨⟨c, hc⟩, -⟩ := h
  exact presentFrame_keeps hc

/-- An addressed request that passes the envelope checks: the owning block's rule, and the reply. -/
theorem takeRequest_act {kind : Byte} {p : Permission} {f : Frame} {s t : State}
    {decode : List Byte → Option Action} {act : Action}
    (h : Offered kind f s t) (hp : p.allows f = true) (hd : decode f.fields = some act) :
    takeRequest kind p f decode s =
      .next (settle s (answered kind f (act t).2.code (act t).2.data (act t).1)) := by
  obtain ⟨⟨c, hc⟩, hb⟩ := h
  simp [takeRequest, takeTimedRequest, hc, answer, envelope, hp, hd, hb, answered]

/-- The same, with the rule's result given. -/
theorem takeRequest_done {kind : Byte} {p : Permission} {f : Frame} {s t u : State}
    {decode : List Byte → Option Action} {act : Action} {code : ReplyCode} {data : List Byte}
    (h : Offered kind f s t) (hp : p.allows f = true) (hd : decode f.fields = some act)
    (ha : act t = (u, { code := code, data := data })) :
    takeRequest kind p f decode s = .next (settle s (answered kind f code data u)) := by
  rw [takeRequest_act h hp hd, ha]

/-- An addressed request of a link or form that may not issue it is refused UNKNOWN (09 R174 step 3). -/
theorem takeRequest_unknown {kind : Byte} {p : Permission} {f : Frame} {s t : State}
    {decode : List Byte → Option Action} (h : Offered kind f s t) (hp : p.allows f = false) :
    takeRequest kind p f decode s = .next (settle s (answered kind f .unknown [] t)) := by
  obtain ⟨⟨c, hc⟩, hb⟩ := h
  simp [takeRequest, takeTimedRequest, hc, answer, envelope, hp, hb, answered, refuse, Reply.refuse]

/-- An addressed request of a length that does not suit its kind is refused LENGTH (09 R174 step 4). -/
theorem takeRequest_length {kind : Byte} {p : Permission} {f : Frame} {s t : State}
    {decode : List Byte → Option Action} (h : Offered kind f s t) (hp : p.allows f = true)
    (hd : decode f.fields = none) :
    takeRequest kind p f decode s = .next (settle s (answered kind f .length [] t)) := by
  obtain ⟨⟨c, hc⟩, hb⟩ := h
  simp [takeRequest, takeTimedRequest, hc, answer, envelope, hp, hd, hb, answered, refuse, Reply.refuse]

/-- A broadcast that passes the envelope checks acts, and is not answered (09 R174). -/
theorem takeRequest_toAll {kind : Byte} {p : Permission} {f : Frame} {s t : State}
    {decode : List Byte → Option Action} {act : Action}
    (h : OfferedToAll kind f s t) (hp : p.allows f = true) (hd : decode f.fields = some act) :
    takeRequest kind p f decode s = .next (settle s (act t).1) := by
  obtain ⟨⟨c, hc⟩, hb⟩ := h
  simp [takeRequest, takeTimedRequest, hc, answer, envelope, hp, hd, hb]

/-- An ignored broadcast only frees its buffer (09 R174 steps 1 and 4). -/
theorem takeRequest_ignored {kind : Byte} {p : Permission} {f : Frame} {s t : State}
    {decode : List Byte → Option Action} (h : OfferedToAll kind f s t)
    (hi : p.allows f = false ∨ decode f.fields = none) :
    takeRequest kind p f decode s = .next (settle s t) := by
  obtain ⟨⟨c, hc⟩, hb⟩ := h
  rcases hi with hi | hi
  · simp [takeRequest, takeTimedRequest, hc, answer, envelope, hi, hb, refuse]
  · cases hp : p.allows f <;> simp [takeRequest, takeTimedRequest, hc, answer, envelope, hi, hp, hb, refuse]

/-- The first check of a request that changes the part (07 R142): refused in SERVICE on the show link. -/
theorem unlessTaken_taken {f : Frame} {act : Action} {t : State} (h : FromShowInService f t) :
    unlessTaken f.link act t = (t, { code := .taken, data := [] }) := by
  simp [unlessTaken, State.takenOn, h.1, h.2, refuse, Reply.refuse]

/-- And passed everywhere else. -/
theorem unlessTaken_free {f : Frame} {act : Action} {t : State} (h : ¬ FromShowInService f t) :
    unlessTaken f.link act t = act t := by
  unfold unlessTaken
  rw [if_neg]
  simp only [State.takenOn, Bool.and_eq_true, beq_iff_eq]
  exact h

/-- An addressed frame passes the first row of 09 Table 9.3.1. -/
theorem addressed_allows {kind : Byte} {f : Frame} {s t : State} (h : Offered kind f s t) :
    Permission.addressed.allows f = true := by
  simp [Permission.allows, h.2]

/-! ### Errors -/

/-- An occurrence and a change of a link's unit do not meet. -/
theorem updUnit_raise (o : Occurrence) (l : Link) (f : LinkUnit → LinkUnit) (s : State) :
    updUnit l f (raise o s) = raise o (updUnit l f s) := by
  cases l <;> (unfold raise; dsimp only [updUnit]; split <;> rfl)

/-- What an occurrence leaves (08 R148). -/
theorem raise_raised (o : Occurrence) (s : State) :
    ∃ m, raise o s = { s with fault := m } ∧ Raised o s m := by
  refine ⟨(raise o s).fault, ?_, ?_⟩
  · unfold raise; dsimp only; split <;> rfl
  · unfold raise Raised captureOf
    dsimp only
    split <;> rename_i hm
    · exact ⟨by simp [KindRecord.occurred, saturate], fun i hi => upd_get_ne _ _ _ _ (Ne.symm hi), rfl,
        fun _ => ⟨rfl, rfl, rfl⟩, fun h => absurd hm (by rw [h]; decide)⟩
    · refine ⟨by simp [KindRecord.occurred, saturate], fun i hi => upd_get_ne _ _ _ _ (Ne.symm hi), rfl,
        fun h => absurd h hm, fun _ => ⟨rfl, rfl, ?_, ?_⟩⟩
      · intro h; simp [h, State.showNow]
      · intro c h; simp [h, saturate]

/-- An occurrence on top of a command's own steps. -/
theorem completesRaising_of {c : Instr} {s u : State} {o : Occurrence}
    (h : exec c s = .next (settle s (raise o u))) : CompletesRaising c s u o := by
  obtain ⟨m, hm, hr⟩ := raise_raised o u
  exact ⟨m, hr, by rw [Completes, h, hm]⟩

end Sys2Proof.Machine
end

