-- ==== Sys2Proof/Laws/Arbiter.lean ====
section
/-! SUPPORT. One lemma for each operation that the arbiter, the cue engine and the scheduler share: what it leaves, in
the words of the statements (chapters 1, 2 and 4). -/

namespace Sys2Proof.Machine

set_option linter.all false

open Safety

/-! ### Finding a slot -/

theorem slotIn_none {st : SlotState} {s : State} (h : ∀ k : SlotId, s.cue.slots[k].state ≠ st) :
    slotIn st s = none := by
  unfold slotIn
  rw [List.find?_eq_none]
  intro k _ hk
  exact h k (by simpa using hk)

theorem slotIn_some {st : SlotState} {s : State} {k : SlotId} (h : s.cue.slots[k].state = st)
    (hu : ∀ j : SlotId, s.cue.slots[j].state = st → j = k) : slotIn st s = some k := by
  unfold slotIn
  cases hf : (allFin 4).find? (fun k => s.cue.slots[k].state == st) with
  | none =>
    rw [List.find?_eq_none] at hf
    exact absurd h (by simpa using hf k (by simp [allFin]))
  | some j =>
    have := List.find?_some hf
    rw [hu j (by simpa using this)]

theorem roleHolder_none {s : State} (h : RoleFree s) : roleHolder s = none := by
  have h1 : slotIn .sounding s = none := slotIn_none fun k hk => by
    have := h k; simp only [holdsRole, hk] at this; cases this
  have h2 : slotIn .paused s = none := slotIn_none fun k hk => by
    have := h k; simp only [holdsRole, hk] at this; cases this
  simp [roleHolder, h1, h2]

theorem roleHolder_some {s : State} {k : SlotId} (h : HoldsRoleAlone k s) : roleHolder s = some k := by
  obtain ⟨hk, hu⟩ := h
  simp only [holdsRole, Bool.or_eq_true, beq_iff_eq] at hk hu
  unfold roleHolder
  rcases hk with hk | hk
  · rw [slotIn_some hk fun j hj => hu j (Or.inl hj)]
  · by_cases hs : ∃ j : SlotId, s.cue.slots[j].state = .sounding
    · obtain ⟨j, hj⟩ := hs
      have := hu j (Or.inl hj); subst this
      rw [hj] at hk; cases hk
    · rw [slotIn_none (by simpa using hs), slotIn_some hk fun j hj => hu j (Or.inr hj)]

/-! ### Withdrawal and emptying -/

/-- Withdrawal (04 R82). -/
theorem withdraw_withdraws (k : SlotId) (s : State) : Withdraws k s (withdraw k s) := by
  refine ⟨rfl, fun c => ?_, rfl⟩
  simp only [withdraw, mapAll_get, StrikeChannel.emptySlotOf, StrikeChannel.holdsPulseOf]
  obtain ⟨a, b, d, st, np, e, f, g, h, i, j, l⟩ := s.drive.strikes[c]
  cases np <;> simp

/-- Emptying of a slot (01 R3). -/
theorem emptySlot_empties (k : SlotId) (s : State) : Empties k s (emptySlot k s) := by
  refine ⟨_, withdraw_withdraws k s, ?_⟩
  unfold emptySlot
  congr 1
  funext x
  unfold Slot.emptied Ring.powerOn
  cases x.state <;> rfl

/-! ### Starting -/

theorem noticeLow_eq (k : SlotId) (s : State) :
    noticeLow k s = { s with fault := withLow s.cue.slots[k] s.fault } := by
  unfold noticeLow withLow Ring.unplayedCount setFlag
  dsimp only
  split <;> rfl

/-- A slot starts (02 R31). -/
theorem startSlot_starts (k : SlotId) (s : State) : Starts k s (startSlot k s) := by
  unfold Starts startSlot sound
  rw [noticeLow_eq]
  simp only [setSection, leaveWaiting, updSlot, upd_upd, upd_get_self]
  congr 1
  congr 1
  congr 1
  funext x
  simp only [leadAnchor, headAnchor, Slot.withAnchor, State.showNow, Slot.leadIn]
  cases x.ring.unplayed <;> rfl

/-! ### The best waiting cue -/

theorem bestWaiting_go_none (s : State) (l : List WaitingEntry) :
    bestWaiting.go s l = none ↔ l = [] := by
  cases l with
  | nil => simp [bestWaiting.go]
  | cons w rest =>
    simp only [bestWaiting.go, reduceCtorEq, iff_false]
    split
    · split <;> simp
    · simp

theorem bestWaiting_go_best (s : State) (l : List WaitingEntry) (k : SlotId) (h : bestWaiting.go s l = some k) :
    ∃ front w behind, l = front ++ w :: behind ∧ w.slot = k ∧
      (∀ x ∈ front, s.cue.slots[x.slot].priority < s.cue.slots[k].priority) ∧
      (∀ x ∈ behind, s.cue.slots[x.slot].priority ≤ s.cue.slots[k].priority) := by
  induction l generalizing k with
  | nil => simp [bestWaiting.go] at h
  | cons w rest ih =>
    unfold bestWaiting.go at h
    split at h
    · next j hj =>
      obtain ⟨front, v, behind, hl, rfl, h1, h2⟩ := ih j hj
      split at h
      · next hlt =>
        obtain rfl := Option.some.inj h
        refine ⟨w :: front, v, behind, by rw [hl]; rfl, rfl, ?_, h2⟩
        intro x hx
        rcases List.mem_cons.mp hx with rfl | hx
        · exact hlt
        · exact h1 x hx
      · next hge =>
        obtain rfl := Option.some.inj h
        refine ⟨[], w, rest, rfl, rfl, by simp, ?_⟩
        intro x hx
        rw [hl] at hx
        rcases List.mem_append.mp hx with hx | hx
        · have := h1 x hx; omega
        · rcases List.mem_cons.mp hx with rfl | hx
          · omega
          · have := h2 x hx; omega
    · next hn =>
      obtain rfl := Option.some.inj h
      have := (bestWaiting_go_none s rest).mp hn
      subst this
      exact ⟨[], w, [], rfl, rfl, by simp, by simp⟩

theorem bestWaiting_best {s : State} {k : SlotId} (h : bestWaiting s = some k) : BestWaiting k s :=
  bestWaiting_go_best s _ k h

theorem bestWaiting_none {s : State} (h : bestWaiting s = none) (k : SlotId) : ¬ BestWaiting k s := by
  rintro ⟨front, w, behind, hl, -⟩
  have := (bestWaiting_go_none s _).mp h
  rw [hl] at this
  simp at this

/-- The best waiting cue is one slot (02 R32). -/
theorem bestWaiting_unique {s : State} {j k : SlotId} (hj : BestWaiting j s) (hk : BestWaiting k s) : j = k := by
  obtain ⟨f1, w1, b1, e1, rfl, h1, h2⟩ := hj
  obtain ⟨f2, w2, b2, e2, rfl, h3, h4⟩ := hk
  rw [e1] at e2
  rcases List.append_eq_append_iff.mp e2 with ⟨l, rfl, hl⟩ | ⟨l, rfl, hl⟩
  · cases l with
    | nil => simp only [List.nil_append, List.cons.injEq] at hl; rw [hl.1]
    | cons w l =>
      simp only [List.cons_append, List.cons.injEq] at hl
      obtain ⟨rfl, rfl⟩ := hl
      have a := h3 w1 (by simp)
      have b := h2 w2 (by simp)
      omega
  · cases l with
    | nil => simp only [List.nil_append, List.cons.injEq] at hl; rw [hl.1]
    | cons w l =>
      simp only [List.cons_append, List.cons.injEq] at hl
      obtain ⟨rfl, rfl⟩ := hl
      have a := h1 w2 (by simp)
      have b := h4 w1 (by simp)
      omega

theorem beats_iff (k : SlotId) (mask : Nat) (s : State) :
    beats s.cue.slots[k].priority mask = true ↔ Exceeds k mask s := by
  simp [beats, Exceeds]

/-- The cue that may start over a mask (02 R35). -/
theorem qualifier_some {mask : Nat} {s : State} {k : SlotId} (h : qualifier mask s = some k) :
    BestWaiting k s ∧ Exceeds k mask s := by
  unfold qualifier at h
  split at h
  · next j hj =>
    split at h
    · next hb =>
      obtain rfl := Option.some.inj h
      exact ⟨bestWaiting_best hj, (beats_iff _ _ _).mp hb⟩
    · cases h
  · cases h

theorem qualifier_none {mask : Nat} {s : State} (h : qualifier mask s = none) (k : SlotId) (hk : BestWaiting k s) :
    ¬ Exceeds k mask s := by
  unfold qualifier at h
  split at h
  · next j hj =>
    obtain rfl := bestWaiting_unique hk (bestWaiting_best hj)
    split at h
    · cases h
    · next hb => exact fun he => hb ((beats_iff _ _ _).mpr he)
  · next hn => exact absurd hk (bestWaiting_none hn k)

/-- The judgment of the best waiting cue (02 R43). -/
theorem judgeWaiting_judged (s : State) : Judged s (judgeWaiting s) := by
  unfold judgeWaiting
  split
  · next k hk =>
    obtain ⟨hb, he⟩ := qualifier_some hk
    refine ⟨fun j hj _ => ?_, fun h => absurd he (h k hb)⟩
    rw [bestWaiting_unique hj hb]
    exact startSlot_starts k s
  · next hn => exact ⟨fun j hj he => absurd he (qualifier_none hn j hj), fun _ => rfl⟩

/-! ### Preempting -/

theorem upd_self {α : Type} {n : Nat} (v : Vector α n) (i : Fin n) : upd v i (fun _ => v[i]) = v := by
  apply Vector.ext
  intro j hj
  have h := upd_get v i ⟨j, hj⟩ (fun _ => v[i])
  refine Eq.trans h ?_
  split
  · next e => subst e; rfl
  · rfl

theorem splitAtTick_eq (target : Nat) (l : List Committed) :
    (splitAtTick target l).2 = l.dropWhile (fun c => c.event.tick < target) ∧
    (splitAtTick target l).1 = l.takeWhile (fun c => c.event.tick < target) := by
  induction l with
  | nil => exact ⟨rfl, rfl⟩
  | cons c l ih =>
    unfold splitAtTick
    by_cases h : target ≤ c.event.tick
    · have h' : ¬ c.event.tick < target := by omega
      simp [h, h']
    · have h' : c.event.tick < target := by omega
      simp [h, h', ih]

theorem splitAtTick_head (target : Nat) (l : List Committed) :
    (splitAtTick target l).2.head? = l.find? fun c => target ≤ c.event.tick := by
  induction l with
  | nil => rfl
  | cons c l ih =>
    unfold splitAtTick
    by_cases h : target ≤ c.event.tick
    · simp [h]
    · simp [h, ih]

/-- The tempo and meter at the resume tick (02 R36). -/
theorem contextTiming_eq (x : Slot) (p : PauseRecord) :
    contextTiming x p = match p.resumeTick with
      | some t => match x.ring.retained.find? fun c => t ≤ c.event.tick with
        | some c => c.note.before
        | none => x.timing
      | none => x.timing := by
  unfold contextTiming
  cases p.resumeTick with
  | none => rfl
  | some t =>
    simp only
    rw [← splitAtTick_head]
    cases (splitAtTick t x.ring.retained).2 <;> rfl

/-- Preemption (02 R33). -/
theorem preempt_preempts {k : SlotId} {s : State} (h : holdsRole s.cue.slots[k] = true)
    (hp : s.cue.slots[k].state = .paused → s.cue.slots[k].pause ≠ none) : Preempts k s (preempt k s) := by
  simp only [holdsRole, Bool.or_eq_true, beq_iff_eq] at h
  have key : ∀ (p : PauseRecord) (w v : State), freezeOccupant k s = (p, v) →
      v = updSlot k (fun _ => v.cue.slots[k]) w → w.arb = s.arb → w.fault = s.fault → w.drive.holds = s.drive.holds →
      w.drive.rotors = s.drive.rotors →
      preempt k s =
        { updSlot k (fun _ =>
            { v.cue.slots[k] with
              state := .suspended, anchor := .pending v.cue.slots[k].timing.tempo, pause := none }) w with
          arb := { s.arb with stack :=
            { slot := k, freeze := p, timing := contextTiming v.cue.slots[k] p,
              transposition := v.cue.slots[k].transposition, dynamics := v.cue.slots[k].dynamics,
              holds := mapAll HoldChannel.on s.drive.holds, rotorTargets := mapAll RotorChannel.target s.drive.rotors,
              savedMask := v.cue.slots[k].priority } :: s.arb.stack }
          fault := { s.fault with flags := s.fault.flags ||| AttentionFlag.preempt.bit } } := by
    intro p w v hf hv ha hfa hh hr
    unfold preempt
    rw [hf]
    generalize hx : v.cue.slots[k] = x at *
    subst hv
    simp only [setFlag, updSlot, upd_upd, contextOf, upd_get_self, ha, hfa, hh, hr]
    rfl
  rcases h with h | h
  · let p := freezeOf s.now (actingPlaces k s) s.cue.slots[k]
    have hf : freezeOccupant k s = (p, updSlot k (.rewindToFreeze p) (withdraw k s)) := by
      unfold freezeOccupant
      simp only [h]
      rfl
    refine ⟨p, withdraw k s, fun _ => ⟨withdraw_withdraws k s, rfl⟩, fun hq => absurd (h.symm.trans hq) (by simp), ?_⟩
    have e := key p (withdraw k s) _ hf (by simp [updSlot]; rfl) rfl rfl rfl rfl
    rw [contextTiming_eq] at e
    have hx : (updSlot k (.rewindToFreeze p) (withdraw k s)).cue.slots[k] =
        if s.cue.slots[k].state = .sounding ∧ p.point = .entry then s.cue.slots[k].rewind p.freezeTick
        else s.cue.slots[k] := by
      rw [updSlot_cue_slots, upd_get_self]
      show Slot.rewindToFreeze p s.cue.slots[k] = _
      unfold Slot.rewindToFreeze
      rw [h]
      cases p.point <;> simp
    rw [hx] at e
    exact e
  · obtain ⟨p, hpp⟩ := Option.ne_none_iff_exists'.mp (hp h)
    have hf : freezeOccupant k s = (p, s) := by
      unfold freezeOccupant
      simp only [h, hpp]
    refine ⟨p, s, fun hq => absurd (h.symm.trans hq) (by simp), fun _ => ⟨rfl, hpp⟩, ?_⟩
    have e := key p s s hf (by simp only [updSlot, upd_self]) rfl rfl rfl rfl
    rw [contextTiming_eq] at e
    have hns : ¬ (s.cue.slots[k].state = .sounding ∧ p.point = .entry) := by rw [h]; simp
    simp only [hns, if_false]
    exact e

/-! ### Resuming and handing on -/

theorem withTarget_eq (now : Time) (target : Nat) (x : RotorChannel) : x.withTarget now target = rotorTo now target x :=
  rfl

theorem foldl_upd_get {α : Type} {n : Nat} (g : Fin n → α → α) (l : List (Fin n)) (hl : l.Nodup) (v : Vector α n)
    (j : Fin n) : (l.foldl (fun v i => upd v i (g i)) v)[j] = if j ∈ l then g j v[j] else v[j] := by
  induction l generalizing v with
  | nil => rfl
  | cons i l ih =>
    have hc := List.nodup_cons.mp hl
    rw [List.foldl_cons, ih hc.2]
    by_cases h : j = i
    · subst h
      rw [if_neg hc.1, upd_get_self, if_pos (by simp)]
    · have hv : (upd v i (g i))[j] = v[j] := upd_get_ne v i j (g i) (Ne.symm h)
      rw [hv]
      by_cases hj : j ∈ l
      · rw [if_pos hj, if_pos (by simp [hj])]
      · rw [if_neg hj, if_neg (by simp [h, hj])]

theorem foldl_switchHold (on : HoldId → Bool) (l : List HoldId) (s : State) :
    l.foldl (fun t h => switchHold h (on h) t) s =
      { s with drive := { s.drive with
          holds := l.foldl (fun v h => upd v h fun x => { x with on := on h }) s.drive.holds } } := by
  induction l generalizing s with
  | nil => rfl
  | cons h l ih => rw [List.foldl_cons, ih]; rfl

theorem foldl_setRotorTarget (target : RotorId → Nat) (l : List RotorId) (s : State) :
    l.foldl (fun t m => setRotorTarget m (target m) t) s =
      { s with drive := { s.drive with
          rotors := l.foldl (fun v m => upd v m (.withTarget s.now (target m))) s.drive.rotors } } := by
  induction l generalizing s with
  | nil => rfl
  | cons m l ih => rw [List.foldl_cons, ih]; rfl

/-- Step 2 of a resume (02 R37): holds and rotor targets of the record, and nothing else. -/
theorem restoreDrive_eq (r : ContextRecord) (s : State) :
    (∀ h : HoldId, (restoreDrive r s).drive.holds[h] = { s.drive.holds[h] with on := r.holds[h] }) ∧
    (∀ m : RotorId, (restoreDrive r s).drive.rotors[m] = rotorTo s.now r.rotorTargets[m] s.drive.rotors[m]) ∧
    restoreDrive r s =
      { s with drive := { s.drive with
          holds := (restoreDrive r s).drive.holds, rotors := (restoreDrive r s).drive.rotors } } := by
  have hn4 : (allFin 4).Nodup := by decide
  have hn2 : (allFin 2).Nodup := by decide
  unfold restoreDrive
  dsimp only
  rw [foldl_switchHold, foldl_setRotorTarget]
  refine ⟨fun h => ?_, fun m => ?_, rfl⟩
  · refine (foldl_upd_get (fun (h : HoldId) (x : HoldChannel) => { x with on := r.holds[h] }) _ hn4 _ h).trans ?_
    rw [if_pos (by simp [allFin])]
  · refine (foldl_upd_get (fun (m : RotorId) => RotorChannel.withTarget s.now r.rotorTargets[m]) _ hn2 _ m).trans ?_
    rw [if_pos (by simp [allFin])]
    rfl

theorem restored_eq (r : ContextRecord) (x : Slot) :
    x.restored r = { resumedSlot r x with timing := r.timing } := by
  unfold Slot.restored resumedSlot
  dsimp only
  cases r.freeze.point <;> cases x.rewindMode <;> cases r.freeze.resumeTick <;> rfl

/-- A resume (02 R37). -/
theorem resume_resumes (r : ContextRecord) (beneath : List ContextRecord) (s : State) :
    Resumes r beneath s (resume r beneath s) := by
  obtain ⟨h1, h2, h3⟩ := restoreDrive_eq r { s with arb.stack := beneath }
  generalize hd : restoreDrive r { s with arb.stack := beneath } = d at h1 h2 h3
  have e : resume r beneath s =
      { updSlot r.slot (fun _ =>
          { resumedSlot r s.cue.slots[r.slot] with
            state := .sounding, timing := r.timing,
            anchor := headAnchor s (resumedSlot r s.cue.slots[r.slot]) r.timing.tempo }) s with
        arb := { s.arb with stack := beneath }
        sect := { s.sect with state := .playing }
        drive := { s.drive with holds := d.drive.holds, rotors := d.drive.rotors }
        fault := withLow (resumedSlot r s.cue.slots[r.slot])
          { s.fault with flags := s.fault.flags ||| AttentionFlag.preempt.bit } } := by
    unfold resume sound
    rw [noticeLow_eq, hd, h3]
    simp only [setSection, setFlag, updSlot, upd_upd, upd_get_self]
    congr 1
    · congr 1
      apply upd_congr
      rw [restored_eq]
      simp only [leadAnchor, headAnchor, Slot.withAnchor, State.showNow, Slot.leadIn]
      cases (resumedSlot r s.cue.slots[r.slot]).ring.unplayed <;> rfl
    · rw [restored_eq]; rfl
  have hdr : (resume r beneath s).drive = { s.drive with holds := d.drive.holds, rotors := d.drive.rotors } := by
    rw [e]
  refine ⟨fun h => ?_, fun m => ?_, ?_⟩
  · rw [hdr]; exact h1 h
  · rw [hdr]; exact h2 m
  · rw [hdr]; exact e

/-- The role handed on (02 R35). -/
theorem handOn_handsOn (s : State) : HandsOn s (handOn s) := by
  have start : ∀ (mask : Nat) (k : SlotId), qualifier mask s = some k →
      ∀ j, BestWaiting j s → Exceeds j mask s → Starts j s (startSlot k s) := by
    intro mask k hk j hj _
    rw [bestWaiting_unique hj (qualifier_some hk).1]
    exact startSlot_starts k s
  have none_ : ∀ (mask : Nat) (k : SlotId), qualifier mask s = some k →
      ¬ ∀ j, BestWaiting j s → ¬ Exceeds j mask s := fun mask k hk h =>
    h k (qualifier_some hk).1 (qualifier_some hk).2
  unfold HandsOn handOn
  cases hs : s.arb.stack with
  | nil =>
    dsimp only
    cases hq : qualifier s.arb.baseMask s with
    | some k => exact ⟨start _ k hq, fun h => absurd h (none_ _ k hq)⟩
    | none => exact ⟨fun j hj he => absurd he (qualifier_none hq j hj), fun _ => rfl⟩
  | cons r beneath =>
    dsimp only
    cases hq : qualifier r.savedMask s with
    | some k => exact ⟨start _ k hq, fun h => absurd h (none_ _ k hq)⟩
    | none => exact ⟨fun j hj he => absurd he (qualifier_none hq j hj), fun _ => resume_resumes r beneath s⟩

/-! ### The fire list -/

/-- Placement (04 R65, R66). -/
theorem insertFiring_split (f : Firing) (l : List Firing) :
    ∃ front behind, l = front ++ behind ∧ (∀ g ∈ front, g.fireTime ≤ f.fireTime) ∧
      (∀ g, behind.head? = some g → f.fireTime < g.fireTime) ∧ insertFiring f l = front ++ f :: behind := by
  induction l with
  | nil => exact ⟨[], [], rfl, by simp, by simp, rfl⟩
  | cons g rest ih =>
    by_cases h : g.fireTime ≤ f.fireTime
    · obtain ⟨front, behind, hl, h1, h2, h3⟩ := ih
      refine ⟨g :: front, behind, by rw [hl]; rfl, ?_, h2, by simp [insertFiring, h, h3]⟩
      intro x hx
      rcases List.mem_cons.mp hx with rfl | hx
      · exact h
      · exact h1 x hx
    · refine ⟨[], g :: rest, rfl, by simp, ?_, by simp [insertFiring, h]⟩
      intro x hx
      simp only [List.head?_cons, Option.some.injEq] at hx
      subst hx
      exact Int.not_le.mp h

theorem placeFiring_places (time : Time) (kind : FiringKind) (s : State) :
    Places time kind s (placeFiring time kind s) := by
  obtain ⟨front, behind, hl, h1, h2, h3⟩ := insertFiring_split (nextFiring time kind s) s.sched.fireList
  refine ⟨front, behind, hl, h1, h2, ?_⟩
  unfold placeFiring
  rw [h3]
  rfl

theorem first_of_mem {f : Firing} {l : List Firing} (h : f ∈ l) :
    ∃ front behind, l = front ++ f :: behind ∧ f ∉ front := by
  induction l with
  | nil => cases h
  | cons g rest ih =>
    by_cases e : f = g
    · subst e; exact ⟨[], rest, rfl, by simp⟩
    · obtain ⟨front, behind, hl, hn⟩ := ih ((List.mem_cons.mp h).resolve_left e)
      exact ⟨g :: front, behind, by rw [hl]; rfl, by simp [e, hn]⟩

/-- A firing leaves the list (04 R84). -/
theorem erase_first {f : Firing} {front behind : List Firing} (hn : f ∉ front) :
    (front ++ f :: behind).erase f = front ++ behind := by
  rw [List.erase_append_right _ hn, List.erase_cons_head]

theorem removeFiring_leaves {f : Firing} {s : State} (h : f ∈ s.sched.fireList) :
    Leaves f s (removeFiring f s) := by
  obtain ⟨front, behind, hl, hn⟩ := first_of_mem h
  refine ⟨front, behind, hl, hn, ?_⟩
  unfold removeFiring setFireList
  rw [hl, erase_first hn]

theorem replace_first {f g : Firing} {front behind : List Firing} (hn : f ∉ front) :
    (front ++ f :: behind).replace f g = front ++ g :: behind := by
  induction front with
  | nil => simp
  | cons x front ih =>
    simp only [List.mem_cons, not_or] at hn
    have : (f == x) = false := by simpa using hn.1
    simp [List.replace_cons, this, ih hn.2]

/-- A fire time arrives (04 R74, R78 to R81, 02 R39). -/
theorem arrive_arrives {f : Firing} {s : State} (h : f ∈ s.sched.fireList) : Arrives f s (arrive f s) := by
  have hl := removeFiring_leaves h
  obtain ⟨front, behind, hs, hn⟩ := first_of_mem h
  unfold Arrives arrive
  cases hk : f.kind with
  | strike e p g sh =>
    refine ⟨front, behind, hs, hn, ?_⟩
    dsimp only
    unfold replaceFiring setFireList
    rw [hs, replace_first hn, Firing.arrived, hk]
    rfl
  | test sh =>
    refine ⟨front, behind, hs, hn, ?_⟩
    dsimp only
    unfold replaceFiring setFireList
    rw [hs, replace_first hn, Firing.arrived, hk]
    rfl
  | hold e h on => exact ⟨_, hl, rfl⟩
  | rotor e m t => exact ⟨_, hl, rfl⟩
  | mark e n => exact ⟨_, hl, rfl⟩
  | ending e => exact ⟨_, _, hl, emptySlot_empties _ _, handOn_handsOn _⟩

/-- Firings that arrive in turn do so as the statements have it (04 R74, R82). -/
theorem arriveInTurn_inTurn (fs : List Firing) (s : State) : ArriveInTurn fs s (arriveInTurn fs s) := by
  induction fs generalizing s with
  | nil => rfl
  | cons f rest ih =>
    unfold ArriveInTurn arriveInTurn
    refine ⟨fun h => ⟨arrive f s, arrive_arrives h, ?_⟩, fun h => ?_⟩
    · rw [if_pos h]; exact ih _
    · rw [if_neg h]; exact ih _

/-- What every arrival of a listed firing keeps, arrivals in turn keep. -/
theorem arriveInTurn_law {P : State → Prop} (h : ∀ f s, f ∈ s.sched.fireList → P s → P (arrive f s))
    (fs : List Firing) (s : State) (hs : P s) : P (arriveInTurn fs s) := by
  induction fs generalizing s with
  | nil => exact hs
  | cons f rest ih =>
    unfold arriveInTurn
    split
    · next hf => exact ih _ (h f s hf hs)
    · exact ih _ hs

/-- The firings in front of one, up to its first place in a list. -/
theorem takeWhile_before {f : Firing} {front behind : List Firing} (hn : f ∉ front) :
    (front ++ f :: behind).takeWhile (· != f) = front := by
  induction front with
  | nil => simp
  | cons g front ih =>
    have hg : g ≠ f := fun e => hn (e ▸ List.mem_cons_self)
    simp [hg, ih fun h => hn (List.mem_cons_of_mem g h)]

/-- A firing is WAITING exactly when it is not RAIL-WAITING (04 R66). -/
theorem not_railWaiting (g : Firing) : (!g.railWaiting) = decide (g.state = .waiting) := by
  cases h : g.state <;> simp [Firing.railWaiting, h]

/-- A firing placed with its fire time reached arrives in list order (04 R73, R74, R78). -/
theorem arriveIfReached_inListOrder {f : Firing} {s : State} (h : f ∈ s.sched.fireList) (ht : f.fireTime ≤ s.now) :
    ArrivesInListOrder f s (arriveIfReached (some f) s) := by
  obtain ⟨front, behind, hs, hn⟩ := first_of_mem h
  refine ⟨front, behind, hs, hn, ?_⟩
  unfold arriveIfReached arrivingBefore
  dsimp only
  rw [if_pos ht, hs, takeWhile_before hn]
  have hf : front.filter (·.arrives s.now) =
      front.filter fun g => g.state = .waiting ∧ g.fireTime ≤ (s.partTime : Int) := by
    congr 1
    funext g
    simp only [Firing.arrives, not_railWaiting, State.now, Bool.decide_and]
    rfl
  rw [hf]
  exact arriveInTurn_inTurn _ _

end Sys2Proof.Machine
end

