-- ==== Sys2Proof/Laws/Operands.lean ====
section
/-! SUPPORT. What the operand forms read: a field in its range, and a field out of it (chapter 10). -/

namespace Sys2Proof.Machine

theorem toFin_eq {n : Nat} {b : Byte} {i : Fin n} (h : b.toNat = i.val) : toFin n b = some i := by
  have hi := i.isLt
  unfold toFin
  rw [dif_pos (by omega)]
  exact congrArg some (Fin.ext h)

theorem toFin_none {n : Nat} {b : Byte} (h : n ≤ b.toNat) : toFin n b = none := by
  unfold toFin
  rw [dif_neg (by omega)]

/-- A number below 256 is read back from the byte it is written to. -/
theorem toFin_finByte {n : Nat} (i : Fin n) (h : n ≤ 256) : toFin n (finByte i) = some i := by
  have hi := i.isLt
  apply toFin_eq
  simp only [finByte, byteOf, BitVec.toNat_ofNat]
  omega

theorem yesNo_boolByte (b : Bool) : yesNo (boolByte b) = some b := by cases b <;> rfl

theorem yesNo_none {b : Byte} (h : 1 < b.toNat) : yesNo b = none := by
  unfold yesNo
  rw [if_neg, if_neg]
  · rintro rfl; simp at h
  · rintro rfl; simp at h

theorem rewindMode_code (m : RewindMode) : RewindMode.ofCode m.code = some m := by cases m <;> rfl

theorem busyPolicy_code (p : BusyPolicy) : BusyPolicy.ofCode p.code = some p := by cases p <;> rfl

theorem severity_code (v : Severity) : Severity.ofCode v.code = some v := by cases v <;> rfl

theorem phaseEntry_code (e : Option RailId) : phaseEntry (phaseCode e) = some e := by
  cases e with
  | none => rfl
  | some r => revert r; decide

theorem kindSet_some {a b : Byte} (h : u16 a b < 8192) : kindSet a b = some (BitVec.ofNat 13 (u16 a b)) := by
  unfold kindSet; rw [if_pos h]

theorem kindSet_none {a b : Byte} (h : 8192 ≤ u16 a b) : kindSet a b = none := by
  unfold kindSet; rw [if_neg (by omega)]

/-- A list of fields is read back when each of them is. -/
theorem decodeAll_map {α : Type} (f : Byte → Option α) (g : α → Byte) (h : ∀ a, f (g a) = some a) (l : List α) :
    decodeAll f (l.map g) = some l := by
  induction l with
  | nil => rfl
  | cons a l ih => simp [decodeAll, h, ih]

/-- A list with one field out of range is out of range. -/
theorem decodeAll_none {α : Type} (f : Byte → Option α) (l : List Byte) (b : Byte) (hb : b ∈ l)
    (h : f b = none) : decodeAll f l = none := by
  induction l with
  | nil => simp at hb
  | cons a l ih =>
    rcases List.mem_cons.mp hb with rfl | hb
    · simp [decodeAll, h]
    · unfold decodeAll
      rw [ih hb]
      cases f a <;> rfl

end Sys2Proof.Machine
end

