-- ==== Sys2Proof/Laws/Changes.lean ====
section
/-! SUPPORT. What one step can do, said once: every step is made of the changes listed in `Change`. A later proof
that a law is kept goes through that list (`Change` has one rule for everything the laws do not speak of, `calm`),
and cites `step_changes`. -/

namespace Sys2Proof.Machine

set_option linter.all false

/-- Nothing that a law of Safety speaks of is changed, but for a fatal cause that may have been raised. -/
structure Calm (s t : State) : Prop where
  slots : t.cue.slots = s.cue.slots
  stack : t.arb.stack.map ContextRecord.slot = s.arb.stack.map ContextRecord.slot
  waiting : t.arb.waiting = s.arb.waiting
  windows : t.pitch.windows = s.pitch.windows
  groups : t.pitch.groups = s.pitch.groups
  lanes : t.pitch.lanes = s.pitch.lanes
  fireList : t.sched.fireList = s.sched.fireList
  rails : t.rail.rails = s.rail.rails
  strikes : t.drive.strikes = s.drive.strikes
  state : t.sect.state = s.sect.state
  halt : t.sect.haltPending = s.sect.haltPending
  short : t.fault.kinds[ErrorKind.driveShort.number].severity = s.fault.kinds[ErrorKind.driveShort.number].severity
  show_ : t.showUnit.buffers.length ≤ s.showUnit.buffers.length
  service : t.serviceUnit.buffers.length ≤ s.serviceUnit.buffers.length

/-- What a step is made of. -/
inductive Change : State → State → Prop
  | refl (s : State) : Change s s
  | trans {s t u : State} : Change s t → Change t u → Change s u
  | calm {s t : State} : Calm s t → Change s t
  | powerOn (a : BitVec 5) (r : BitVec 2) (x y : Bool) (n : Nat) (p : List Instr) (s : State) :
      Change s (State.powerOn a r x y n p)
  | accept (l : Link) (b : BufferedFrame) (s : State) :
      (s.unit l).bufferFree = true → Change s (acceptFrame l b s)
  | openCue (k : SlotId) (c : CueSettings) (s : State) :
      s.sect.state ≠ .halted → s.sect.state ≠ .hushing → s.cue.slots[k].state = .empty → c.inRange = true →
      Change s (updSlot k (fun _ => Slot.opened c) s)
  | events (k : SlotId) (es : List Event) (s : State) :
      s.cue.slots[k].state ≠ .empty → s.cue.slots[k].ring.closed = false →
      inOrder (s.cue.slots[k].ring.lastTick.getD 0) es = true → es.length ≤ s.cue.slots[k].ring.freeCount →
      Change s (updSlot k (fun y => anchorAtBatch s.showNow es { y with ring := y.ring.join es }) s)
  | slotDetails (k : SlotId) (g : Slot → Slot) (s : State) :
      (∀ x, (g x).state = x.state ∧ (g x).ring = x.ring) → Change s (updSlot k g s)
  | takeRole (k : SlotId) (s : State) :
      s.refusesStart = false → s.cue.slots[k].state = .loaded → Change s (takeRole k s)
  | enterWaiting (k : SlotId) (s : State) :
      s.refusesStart = false → s.cue.slots[k].state = .loaded → Change s (enterWaiting k s)
  | pause (k : SlotId) (s : State) :
      s.sect.state = .playing → slotIn .sounding s = some k → Change s (pauseSlot k s)
  | continue_ (k : SlotId) (s : State) :
      s.sect.state = .paused → slotIn .paused s = some k → Change s (continueSlot k s)
  | drop (k : SlotId) (s : State) : Change s (dropSlot k s)
  | judge (s : State) : s.sect.state = .quiet → Change s (judgeWaiting s)
  | window (i : WindowId) (w : Window) (s : State) :
      w.valid = true → overlapWith i w s.pitch = none →
      Change s { s with pitch.windows := upd s.pitch.windows i fun _ => w }
  | group (g : GroupId) (new : Group) (s : State) :
      memberElsewhere g s.drive new.members = none →
      Change s (setMembership (some g) new.members (setMembership none s.pitch.groups[g].members
        { s with pitch.groups := upd s.pitch.groups g fun _ => new }))
  | lanes (v : Vector Lane 8) (s : State) : v[(0 : Fin 8)] = 0 → Change s { s with pitch.lanes := v }
  | railSetting (r : RailId) (limit drain : Nat) (s : State) :
      Change s (changeRail r (.configured limit drain) s)
  | railLatch (r : RailId) (s : State) :
      s.rail.rails[r].overloaded = false → Change s (updRail r (fun x => { x with latch := false }) s)
  | channel (c : ChannelId) (g : ChannelSettings) (noCurrent : Bool) (s : State) :
      Change s (settleChannel c noCurrent (updStrike c (.configured g) s))
  | takeOut (c : ChannelId) (s : State) : Change s (updStrike c (.takeOut s.now) s)
  | short (c : ChannelId) (s : State) : Change s (updStrike c (.shorted s.now) s)
  | unfence (c : ChannelId) (s : State) : Change s (updStrike c (fun x => { x with fenced := false }) s)
  | pulseEnd (c : ChannelId) (t : Time) (s : State) : Change s (updStrike c (.stopAt t) s)
  | recoveryEnd (c : ChannelId) (noCurrent : Bool) (s : State) :
      s.drive.strikes[c].state = .recover → Change s (endRecovery c noCurrent s)
  | test (sh : Shot) (s : State) :
      s.sect.state = .service → s.fireListFull = false → Change s (placeTest sh s)
  | commit (k : SlotId) (s : State) : commitReady s = some k → Change s (commitHead k s)
  | arrive (f : Firing) (s : State) : f ∈ s.sched.fireList → Change s (arrive f s)
  | leave (f : Firing) (s : State) : Change s (removeFiring f s)
  | phase (noCurrent : BitVec 96) (s : State) : Change s (startPhase noCurrent s)
  | hush (target : HushTarget) (halt : Bool) (s : State) : Change s (beginHush target halt s)
  | halt (s : State) : s.sect.state = .hushing → Change s { s with sect.haltPending := true }
  | complete (s : State) : Change s (completeIfDone s)
  | takeover (s : State) : s.sect.state = .quiet ∨ s.sect.state = .halted → Change s (enterService s)
  | removeTests (s : State) : Change s (removeTests s)
  | toHalted (s : State) : s.sect.state = .service → (∀ f ∈ s.sched.fireList, f.kind.source ≠ .test) →
      Change s (setSection .halted s)
  | toQuiet (s : State) :
      (s.sect.state = .service ∧ ∀ f ∈ s.sched.fireList, f.kind.source ≠ .test) ∨ s.sect.state = .halted →
      Change s { s with sect := { s.sect with state := .quiet, haltPending := false } }

open Change

/-! ### Calm changes -/

theorem Calm.refl (s : State) : Calm s s := by constructor <;> simp

/-- An occurrence changes no severity (08 R148). -/
theorem raise_severity (o : Occurrence) (s : State) (k : Fin 13) :
    (raise o s).fault.kinds[k].severity = s.fault.kinds[k].severity := by
  have : (raise o s).fault.kinds = upd s.fault.kinds o.kind.number KindRecord.occurred := by
    unfold raise; dsimp only; split <;> rfl
  rw [this, upd_get]
  split <;> simp [KindRecord.occurred]

theorem calm_raise (o : Occurrence) (s : State) : Calm s (raise o s) := by
  constructor <;> first | exact raise_severity o s _ | simp

theorem calm_updUnit (l : Link) (g : LinkUnit → LinkUnit) (s : State)
    (h : (g (s.unit l)).buffers.length ≤ (s.unit l).buffers.length) : Calm s (updUnit l g s) := by
  cases l <;> constructor <;> simp_all [updUnit, State.unit]

theorem calm_setFlag (f : AttentionFlag) (s : State) : Calm s (setFlag f s) := by
  constructor <;> simp [setFlag]

theorem calm_sect (r : SectionRecord) (s : State) (h : r.state = s.sect.state)
    (hh : r.haltPending = s.sect.haltPending) : Calm s { s with sect := r } := by
  constructor <;> simp [h, hh]

theorem calm_fault (m : FaultMonitor) (s : State)
    (h : m.kinds[ErrorKind.driveShort.number].severity = s.fault.kinds[ErrorKind.driveShort.number].severity) :
    Calm s { s with fault := m } := by
  constructor <;> first | exact h | simp

/-- A change of a set of kinds that changes no severity (08 R155, R156). -/
theorem changeKinds_severity (set : BitVec 13) (g : KindRecord → KindRecord) (s : State)
    (hg : ∀ k, (g k).severity = k.severity) (k : Fin 13) :
    (changeKinds set g s).fault.kinds[k].severity = s.fault.kinds[k].severity := by
  have : ∀ (l : List (Fin 13)) (v : Vector KindRecord 13),
      (l.foldl (fun v k => if set.getLsbD k.val then upd v k g else v) v)[k].severity = v[k].severity := by
    intro l
    induction l with
    | nil => intro v; rfl
    | cons a rest ih =>
      intro v
      rw [List.foldl_cons, ih]
      split
      · rw [upd_get]; split <;> simp [hg]
      · rfl
  exact this _ _

theorem calm_changeKinds (set : BitVec 13) (g : KindRecord → KindRecord) (s : State)
    (hg : ∀ k, (g k).severity = k.severity) : Calm s (changeKinds set g s) :=
  calm_fault _ s (changeKinds_severity set g s hg _)

theorem raise_changes (o : Occurrence) (s : State) : Change s (raise o s) := .calm (calm_raise o s)

theorem setFlag_changes (f : AttentionFlag) (s : State) : Change s (setFlag f s) := .calm (calm_setFlag f s)

@[simp] theorem restartTimer_halt (now : Time) (r : SectionRecord) :
    (r.restartTimer now).haltPending = r.haltPending := by
  unfold SectionRecord.restartTimer; split <;> rfl

theorem startTimer_state (now : Time) (r : SectionRecord) : (r.startTimer now).state = r.state := by
  unfold SectionRecord.startTimer; split <;> rfl

theorem startTimer_halt (now : Time) (r : SectionRecord) : (r.startTimer now).haltPending = r.haltPending := by
  unfold SectionRecord.startTimer; split <;> rfl

theorem notePendantFrame_changes (l : Link) (s : State) : Change s (notePendantFrame l s) := by
  cases l with
  | showLink => exact .refl s
  | servicePort => exact .calm (calm_sect _ s (by simp) (by simp))

theorem presentFrame_changes {kind : Byte} {f : Frame} {s t : State} {c : Time}
    (h : presentFrame kind f s = some (c, t)) : Change s t := by
  unfold presentFrame at h
  split at h
  · next b rest hb =>
    split at h
    · cases h
      exact .calm (calm_updUnit _ _ _ (by rw [hb]; simp [LinkUnit.free]))
    · cases h
  · split at h
    · cases h; exact notePendantFrame_changes _ _
    · cases h

theorem placeReply_changes (l : Link) (r : ReplyFrame) (s : State) : Change s (placeReply l r s) := by
  unfold placeReply
  split
  · exact .calm (calm_updUnit _ _ _ (Nat.le_refl _))
  · exact .calm (calm_updUnit _ _ _ (Nat.le_refl _))
  · exact raise_changes _ _

/-! ### The end of an event -/

theorem commitWhileReady_changes (n : Nat) (s : State) : Change s (commitWhileReady n s) := by
  induction n generalizing s with
  | zero => exact .refl s
  | succ n ih =>
    unfold commitWhileReady
    split
    · next k hk => exact .trans (.commit k s hk) (ih _)
    · exact .refl s

theorem deliverFatal_changes (s : State) : Change s (deliverFatal s) := by
  unfold deliverFatal
  split
  · have h0 : Change s { s with fault.fatalDue := false } := .calm (by constructor <;> simp)
    refine .trans h0 ?_
    unfold fatalCause
    split
    · next h => exact .halt _ h
    · exact .hush _ _ _
  · exact .refl s

theorem settle_changes {before s t : State} (h : Change s t) : Change s (settle before t) := by
  refine .trans h ?_
  unfold settle
  refine .trans ?_ (deliverFatal_changes _)
  unfold commitsAfterLeaving
  split
  · exact commitWhileReady_changes _ _
  · exact .refl _

theorem event_changes {body : State → State} {s t : State} (h : event body s = .next t)
    (hb : Change s (body s)) : Change s t := by
  unfold event at h
  cases h
  exact settle_changes hb

/-! ### Requests -/

theorem takeTimedRequest_changes {kind : Byte} {p : Permission} {f : Frame}
    {decode : Time → List Byte → Option Action} {s t : State}
    (h : takeTimedRequest kind p f decode s = .next t)
    (ha : ∀ c act, decode c f.fields = some act → ∀ u, Change u (act u).1) : Change s t := by
  unfold takeTimedRequest at h
  split at h
  · next c u hp =>
    cases h
    have henv : Change u (envelope p f (decode c) u).1 := by
      unfold envelope
      split
      · cases hd : decode c f.fields with
        | none => exact .refl u
        | some act => exact ha c act hd u
      · exact .refl u
    refine settle_changes (.trans (presentFrame_changes hp) ?_)
    unfold answer
    dsimp only
    split
    · exact henv
    · exact .trans henv (placeReply_changes _ _ _)
  · cases h; exact .refl s

theorem takeRequest_changes {kind : Byte} {p : Permission} {f : Frame} {decode : List Byte → Option Action}
    {s t : State} (h : takeRequest kind p f decode s = .next t)
    (ha : ∀ act, decode f.fields = some act → ∀ u, Change u (act u).1) : Change s t :=
  takeTimedRequest_changes h fun _ => ha

theorem unlessTaken_changes {l : Link} {act : Action} {u : State} (h : Change u (act u).1) :
    Change u (unlessTaken l act u).1 := by
  unfold unlessTaken
  split
  · exact .refl u
  · exact h

/-- The same, for a rule that is chosen by a match on the operands. -/
theorem unlessTaken_acts {l : Link} {act : Action} {u : State}
    (h : ∀ a, act = a → Change u (a u).1) : Change u (unlessTaken l act u).1 :=
  unlessTaken_changes (h act rfl)

/-! ### What each command is made of -/

/-- A request that answers and changes nothing but what is calm. -/
theorem calmRequest_changes {kind : Byte} {p : Permission} {f : Frame} {decode : List Byte → Option Action}
    {s t : State} (h : takeRequest kind p f decode s = .next t)
    (ha : ∀ act, decode f.fields = some act → ∀ u, Calm u (act u).1) : Change s t :=
  takeRequest_changes h fun act hd u => .calm (ha act hd u)

theorem unlessTaken_calm {l : Link} {act : Action} {u : State} (h : Calm u (act u).1) :
    Calm u (unlessTaken l act u).1 := by
  unfold unlessTaken
  split
  · exact .refl u
  · exact h

end Sys2Proof.Machine
end

