-- ==== Sys2Proof/Laws/Commit.lean ====
section
/-! SUPPORT. What a commit does (01 R19 to R24): one lemma for the passing of the head entry and one for the commit
that is ready. -/

namespace Sys2Proof.Machine

set_option linter.all false

open Safety

/-- The notices at the end of a commit (01 R24). -/
theorem notices_eq (k : SlotId) (s : State) :
    noticeUnderrun k (noticeLow k s) =
      { s with fault := { s.fault with flags :=
          s.fault.flags |||
            (if s.cue.slots[k].ring.unplayed.length < s.cue.slots[k].lowWater ∧ s.cue.slots[k].ring.closed = false then
              AttentionFlag.cueLow.bit else 0) |||
            (if s.cue.slots[k].ring.unplayed = [] ∧ s.cue.slots[k].ring.closed = false then
              AttentionFlag.underrun.bit else 0) } } := by
  have hu : (s.cue.slots[k].ring.unplayed.length = 0 ∧ s.cue.slots[k].ring.closed = false) ↔
      (s.cue.slots[k].ring.unplayed = [] ∧ s.cue.slots[k].ring.closed = false) := by
    rw [List.length_eq_zero_iff]
  unfold noticeUnderrun noticeLow Ring.unplayedCount setFlag
  dsimp only
  split <;> simp only [hu] <;> split <;> simp [*]

/-- The end of a commit, once the entry's effect has left `v` (01 R19 to R24). -/
theorem commitEntry_passes {k : SlotId} {e : Event} {rest : List Event} {dueShow : Time} {s v : State}
    {outcome : CommitOutcome} {placed : Option Firing} (he : commitEffect k e dueShow s = (v, outcome, placed))
    (hr : v.cue.slots[k].ring.unplayed = e :: rest) (hn : v.partTime = s.partTime) :
    ∃ u,
      Passes k e rest
        (annotationOf e (dueShow - s.cue.syncOffset) s.cue.slots[k].timing v.cue.slots[k].timing outcome) v u ∧
      commitEntry k e dueShow s = arriveIfReached placed u := by
  refine ⟨_, rfl, ?_⟩
  unfold commitEntry
  rw [he]
  dsimp only
  rw [notices_eq]
  have hnow : v.now = s.now := congrArg Int.ofNat hn
  generalize annotationOf e (dueShow - s.cue.syncOffset) s.cue.slots[k].timing v.cue.slots[k].timing outcome = note
  have hadv : (v.cue.slots[k].advance note) =
      { v.cue.slots[k] with ring := { v.cue.slots[k].ring with
          retained := v.cue.slots[k].ring.retained ++ [{ event := e, note := note }], unplayed := rest } } := by
    unfold Slot.advance; rw [hr]
  have hs : updSlot k (fun x => (x.advance note).releaseEntries s.now) v =
      updSlot k (fun y => Slot.releaseEntries v.now { y with ring := { y.ring with
        retained := y.ring.retained ++ [{ event := e, note := note }], unplayed := rest } }) v := by
    apply updSlot_congr
    rw [hadv, hnow]
  rw [hs]
  simp only [updSlot_cue_slots, upd_get_self, Slot.releaseEntries, updSlot_fault]

/-- The commit that is ready (01 R19). -/
theorem commitReady_some {s : State} {k : SlotId} {e : Event} {rest : List Event} {tick : Nat} {time : Time}
    {tempo : Nat} (h1 : s.cue.slots[k].state = .sounding)
    (h2 : ∀ j : SlotId, s.cue.slots[j].state = .sounding → j = k)
    (h3 : s.cue.slots[k].ring.unplayed = e :: rest) (h4 : s.cue.slots[k].anchor = .set tick time tempo) :
    commitReady s =
      if dueAt tick time tempo e.tick - headFlight s.pitch s.cue.slots[k] e - (s.cue.horizonMs : Int) * 1000 ≤ s.showNow
      then
        if needsPlace s.pitch s.cue.slots[k] e && s.fireListFull then none else some k
      else none := by
  unfold commitReady
  rw [slotIn_some h1 h2]
  have hc : commitTime s s.cue.slots[k] e =
      some (dueAt tick time tempo e.tick - headFlight s.pitch s.cue.slots[k] e - (s.cue.horizonMs : Int) * 1000) := by
    unfold commitTime Anchor.due
    rw [h4]
    rfl
  have hd : headDue s s.cue.slots[k] =
      if dueAt tick time tempo e.tick - headFlight s.pitch s.cue.slots[k] e - (s.cue.horizonMs : Int) * 1000 ≤ s.showNow
      then some e else none := by
    unfold headDue
    rw [h1, h3]
    dsimp only
    rw [hc]
  dsimp only
  rw [hd]
  by_cases ht : dueAt tick time tempo e.tick - headFlight s.pitch s.cue.slots[k] e - (s.cue.horizonMs : Int) * 1000 ≤
      s.showNow
  · rw [if_pos ht, if_pos ht]
  · rw [if_neg ht, if_neg ht]

/-- The commit of a slot's head entry is that entry's commit at its due time (01 R14). -/
theorem commitHead_eq {s : State} {k : SlotId} {e : Event} {rest : List Event} {tick : Nat} {time : Time} {tempo : Nat}
    (h3 : s.cue.slots[k].ring.unplayed = e :: rest) (h4 : s.cue.slots[k].anchor = .set tick time tempo) :
    commitHead k s = commitEntry k e (dueAt tick time tempo e.tick) s := by
  unfold commitHead Anchor.due
  rw [h3, h4]

end Sys2Proof.Machine
end

