-- ==== Sys2Proof/Laws/Drive.lean ====
section
/-! SUPPORT. What a pulse begin and a change of a rail record leave, in the words of the statements (06 R112, 05 R98). -/

namespace Sys2Proof.Machine

set_option linter.all false

open Safety

/-- An occurrence on top of a state (08 R148). -/
theorem raise_spec (o : Occurrence) (s : State) : ∃ m, Raised o s m ∧ raise o s = { s with fault := m } := by
  obtain ⟨m, h1, h2⟩ := raise_raised o s
  exact ⟨m, h2, h1⟩

/-- A pulse begins (06 R112, 04 R77). -/
theorem beginPulse_begins (c : ChannelId) (p : Pulse) (noCurrent : Bool) (s : State) :
    Begins c p noCurrent s (beginPulse c p noCurrent s) := by
  obtain ⟨m, h1, h2⟩ := raise_spec { kind := .driveOpen, origin := .channel c, detail := .drive c p.width }
    (updStrike c (.beginAt s.now p noCurrent) s)
  obtain ⟨width, source, fireTime⟩ := p
  unfold Begins beginPulse raiseOpen
  cases noCurrent
  · refine ⟨fun _ => ?_, fun h => absurd h (by simp)⟩
    cases source <;> rfl
  · refine ⟨fun h => absurd h (by simp), fun _ => ⟨m, h1, ?_⟩⟩
    rw [if_pos rfl, h2]
    cases source <;> rfl

/-- A rail takes a record whose latch is not cleared (05 R98, R101). -/
theorem changeRail_takes (r : RailId) (f : Rail → Rail) (s : State) : TakesRail r (f s.rail.rails[r]) s (changeRail r f s) := by
  have e : updRail r f s = updRail r (fun _ => f s.rail.rails[r]) s := updRail_congr rfl
  unfold changeRail raiseOverload
  constructor
  · intro h1 h2
    rw [h1, h2, e]
    exact raise_spec _ _
  · intro h
    rw [if_neg, e]
    rcases h with h | h <;> rw [h] <;> simp

theorem foldr_load {α : Type} (p : α → Bool) (g : α → Nat) (l : List α) :
    (l.map fun h => if p h = true then g h else 0).sum = (l.filter p).foldr (fun h n => g h + n) 0 := by
  induction l with
  | nil => rfl
  | cons a l ih => cases h : p a <;> simp [h, ih]

/-- The standing load (05 R99). -/
theorem standingLoad_eq (s : State) (r : RailId) : standingLoad s.drive r = loadOn s r := by
  have h1 := foldr_load (fun h : HoldChannel => decide (h.rail = r ∧ h.on = true)) HoldChannel.load
    s.drive.holds.toList
  have h2 := foldr_load (fun m : RotorChannel => decide (m.rail = r ∧ 0 < m.current)) RotorChannel.load
    s.drive.rotors.toList
  simp only [decide_eq_true_eq] at h1 h2
  unfold standingLoad loadOn
  rw [h1, h2]

/-- The accounting of one rail (05 R97, R98). -/
theorem accounts_rail (r : RailId) (s : State) :
    Accounts r s (changeRail r (.accounted (standingLoad s.drive r)) s) := by
  unfold Accounts
  rw [standingLoad_eq]
  exact changeRail_takes r (.accounted (loadOn s r)) s

end Sys2Proof.Machine
end

