-- ==== Sys2Proof/Laws/Hush.lean ====
section
/-! SUPPORT. What a hush does: one lemma for its beginning and one for its completion (07 §7.2). -/

namespace Sys2Proof.Machine

set_option linter.all false

open Safety

/-- Every rotor is at rest. -/
theorem rotorsAtRest_iff (d : DriveUnit) : d.rotorsAtRest = true ↔ ∀ m : RotorId, d.rotors[m].current = 0 := by
  unfold DriveUnit.rotorsAtRest
  rw [List.all_eq_true]
  constructor
  · intro h m
    have := h (d.rotors[m]) (by simp [Vector.getElem_mem])
    simpa using this
  · intro h x hx
    obtain ⟨i, hi, rfl⟩ := List.mem_iff_getElem.mp hx
    simpa using h ⟨i, by simpa using hi⟩

/-- No strike channel is DRIVING. -/
theorem silent_iff (d : DriveUnit) : d.silent = true ↔ ∀ c : ChannelId, d.strikes[c].gate = false := by
  unfold DriveUnit.silent
  rw [List.all_eq_true]
  constructor
  · intro h m
    have := h (d.strikes[m]) (by simp [Vector.getElem_mem])
    simpa [StrikeChannel.driving] using this
  · intro h x hx
    obtain ⟨i, hi, rfl⟩ := List.mem_iff_getElem.mp hx
    simpa [StrikeChannel.driving] using h ⟨i, by simpa using hi⟩

/-- A cut with the next-pulse slot emptied (06 R116, R127). -/
theorem cut_emptied (now : Time) (x : StrikeChannel) :
    { x.cut now with nextPulse := none } =
      if x.gate = true then
        { x with state := .recover, lastPulseEnd := some now, readyTime := now + (x.recoveryMs : Int) * 1000, nextPulse := none }
      else { x with nextPulse := none } := by
  obtain ⟨a, b, c, st, e, f, g, h, i, j, k, l⟩ := x
  cases st <;> rfl

/-- A cut leaves the gate inactive (06 R116). -/
theorem cut_gate (now : Time) (x : StrikeChannel) : (x.cut now).gate = false := by
  obtain ⟨a, b, c, st, e, f, g, h, i, j, k, l⟩ := x
  cases st <;> rfl

/-- After the start actions no channel is DRIVING (07 R132). -/
theorem hushed_silent (now : Time) (d : DriveUnit) : (d.hushed now).silent = true := by
  rw [silent_iff]
  intro c
  simp only [DriveUnit.hushed, mapAll_get]
  exact cut_gate now d.strikes[c]

/-- The start of a hush moves no current speed (06 R127). -/
theorem hushed_rotorsAtRest (now : Time) (d : DriveUnit) : (d.hushed now).rotorsAtRest = true ↔ ∀ m : RotorId, d.rotors[m].current = 0 := by
  rw [rotorsAtRest_iff]
  have : ∀ m : RotorId, (d.hushed now).rotors[m].current = d.rotors[m].current := by
    intro m
    simp only [DriveUnit.hushed, mapAll_get, RotorChannel.hushed]
    split <;> rfl
  simp only [this]

/-- The hush record, in the words of the statements. -/
theorem hushBegun_eq (target : HushTarget) (halt : Bool) (s : State) :
    s.sect.hushBegun s.now target halt = hushRecord target halt s := by
  unfold SectionRecord.hushBegun hushRecord SectionRecord.startTimer silencePeriod
  cases target <;> cases h : s.sect.silenceTimer <;> simp

/-- Completion (07 R134). -/
theorem completeHush_ends (s : State) : HushEnds s.sect s (completeHush s) := by
  unfold HushEnds completeHush claimCompletes SectionRecord.completed setFlag
  constructor <;> intro ht <;> simp only [ht]
  · by_cases hc : s.sect.takeover = .claiming <;> simp [hc]
  · cases hh : s.sect.haltPending <;> simp

/-- The beginning of a hush (07 R131, R132). -/
theorem beginHush_begins (target : HushTarget) (halt : Bool) (s : State) :
    HushBegins target halt s (beginHush target halt s) := by
  unfold beginHush
  rw [hushBegun_eq]
  generalize hu : hushStart { s with sect := hushRecord target halt s } = u
  have hstart : u = { s with
      sect := hushRecord target halt s,
      cue := { s.cue with slots := mapAll Slot.emptied s.cue.slots },
      arb := { s.arb with stack := [], waiting := [] }
      sched := { s.sched with fireList := [] }
      drive := s.drive.hushed s.now } := by subst hu; rfl
  have hcomp : hushComplete u = true ↔ ∀ m : RotorId, s.drive.rotors[m].current = 0 := by
    rw [← hushed_rotorsAtRest s.now s.drive]
    subst hstart
    simp [hushComplete, hushed_silent, hushRecord]
  have hk : ∀ v : State, v = u ∨ v = completeHush u → v.cue = u.cue ∧ v.arb = u.arb ∧ v.sched = u.sched ∧
      v.drive = u.drive ∧ v.partTime = u.partTime ∧ v.pitch = u.pitch ∧ v.rail = u.rail ∧
      v.showUnit = u.showUnit ∧ v.serviceUnit = u.serviceUnit ∧ v.settings = u.settings ∧
      v.freeCount = u.freeCount ∧ v.pending = u.pending := by
    rintro v (rfl | rfl)
    · simp
    · unfold completeHush; dsimp only; split <;> simp [setFlag]
  have hv : completeIfDone u = u ∨ completeIfDone u = completeHush u := by
    unfold completeIfDone; split <;> simp
  obtain ⟨h1, h2, h3, h4, h5, h6, h7, h8, h9, h10, h11, h12⟩ := hk _ hv
  have hsect : u.sect = hushRecord target halt s := by rw [hstart]
  have hfault : u.fault = s.fault := by rw [hstart]
  refine ⟨?_, ?_, ?_, ?_, ?_, ?_, ?_, ?_, ?_, ?_, ?_, ?_, ?_, ?_, ?_, ?_, ?_⟩
  · intro k
    rw [h1, hstart]
    simp only [mapAll_get, Slot.emptied, Ring.powerOn]
    cases hs : s.cue.slots[k].state <;> simp
  · rw [h1, hstart]
  · rw [h1, hstart]
  · rw [h2, hstart]
  · rw [h3, hstart]
  · intro c
    rw [h4, hstart]
    simp only [DriveUnit.hushed, mapAll_get]
    exact cut_emptied _ _
  · intro h
    rw [h4, hstart]
    simp only [DriveUnit.hushed, mapAll_get]
  · intro m
    rw [h4, hstart]
    simp only [DriveUnit.hushed, mapAll_get, RotorChannel.hushed]
    split
    · rfl
    · cases ht : s.drive.rotors[m].timer <;> simp
  · split
    · next hr =>
      have := hcomp.mpr hr
      simp only [completeIfDone, this, if_true]
      have e := completeHush_ends u
      unfold HushEnds at e ⊢
      rw [hsect, hfault] at e
      exact e
    · next hr =>
      have : hushComplete u = false := by
        cases h : hushComplete u
        · rfl
        · exact absurd (hcomp.mp h) hr
      simp only [completeIfDone, this]
      exact ⟨hsect, hfault⟩
  · rw [h5, hstart]
  · rw [h6, hstart]
  · rw [h7, hstart]
  · rw [h8, hstart]
  · rw [h9, hstart]
  · rw [h10, hstart]
  · rw [h11, hstart]
  · rw [h12, hstart]

end Sys2Proof.Machine
end

