-- ==== Sys2Proof/Laws/PerInstr.lean ====
section
/-! SUPPORT. A law of each command as syntax: a request's kind byte and frame lead back to the command (10 Table
10.2.1), so the frame a link presents says which command it is. -/

namespace Sys2Proof.Laws.RequestKind

open Sys2Proof.Machine

/-- The frame of a well-formed request command is read back as that command, with one of the two sense results. -/
def Statement (c : Instr) : Prop :=
  ∀ (kind : Byte) (f : Frame), c.request? = some (kind, f) → c.wellFormed = true →
    ∃ noCurrent, commandOf kind f noCurrent = c

/-- A command that is no request has no frame. -/
theorem of_none {c : Instr} (h : c.request? = none) : Statement c := by
  intro kind f hr
  rw [h] at hr
  exact absurd hr (by simp)

/-- A command whose kind byte reads back as itself. -/
theorem of_kind {c : Instr} {kind : Byte} {f : Frame} (noCurrent : Bool) (h : c.request? = some (kind, f))
    (hc : commandOf kind f noCurrent = c) : Statement c := by
  intro k g hr _
  rw [h] at hr
  obtain ⟨rfl, rfl⟩ := Prod.mk.inj (Option.some.inj hr)
  exact ⟨noCurrent, hc⟩

theorem powerOn (address : BitVec 5) (rate : BitVec 2) (showAtSpace : Bool) (serviceAtSpace : Bool) : Statement (.powerOn address rate showAtSpace serviceAtSpace) := of_none rfl

theorem addressCharacter (link : Link) (value : Byte) : Statement (.addressCharacter link value) := of_none rfl

theorem dataCharacter (link : Link) (value : Byte) : Statement (.dataCharacter link value) := of_none rfl

theorem framingError (link : Link) : Statement (.framingError link) := of_none rfl

theorem breakCondition (link : Link) : Statement (.breakCondition link) := of_none rfl

theorem longBreak : Statement .longBreak := of_none rfl

theorem lineReturnToMark (link : Link) : Statement (.lineReturnToMark link) := of_none rfl

theorem replyTransmissionEnd (link : Link) : Statement (.replyTransmissionEnd link) := of_none rfl

theorem unknownRequest (kind : Byte) (frame : Frame) : Statement (.unknownRequest kind frame) := by
  intro k g hr hw
  obtain ⟨rfl, rfl⟩ := Prod.mk.inj (Option.some.inj hr)
  have hk : requestKinds.contains kind = false := by
    simp only [Instr.wellFormed, Bool.and_eq_true, Bool.not_eq_true'] at hw
    exact hw.2
  refine ⟨false, ?_⟩
  unfold commandOf
  split <;> first
    | rfl
    | (next h =>
        rw [show kind = BitVec.ofNat 8 kind.toNat by simp, h] at hk
        exact absurd hk (by decide))

theorem openCue (frame : Frame) : Statement (.openCue frame) := of_kind false rfl rfl

theorem events (frame : Frame) : Statement (.events frame) := of_kind false rfl rfl

theorem readCue (frame : Frame) : Statement (.readCue frame) := of_kind false rfl rfl

theorem setHorizon (frame : Frame) : Statement (.setHorizon frame) := of_kind false rfl rfl

theorem sync (frame : Frame) : Statement (.sync frame) := of_kind false rfl rfl

theorem nudge (frame : Frame) : Statement (.nudge frame) := of_kind false rfl rfl

theorem start (frame : Frame) : Statement (.start frame) := of_kind false rfl rfl

theorem pause (frame : Frame) : Statement (.pause frame) := of_kind false rfl rfl

theorem continueCue (frame : Frame) : Statement (.continueCue frame) := of_kind false rfl rfl

theorem dropCue (frame : Frame) : Statement (.dropCue frame) := of_kind false rfl rfl

theorem setMask (frame : Frame) : Statement (.setMask frame) := of_kind false rfl rfl

theorem setTranspose (frame : Frame) : Statement (.setTranspose frame) := of_kind false rfl rfl

theorem setDynamics (frame : Frame) : Statement (.setDynamics frame) := of_kind false rfl rfl

theorem readStack (frame : Frame) : Statement (.readStack frame) := of_kind false rfl rfl

theorem setWindow (frame : Frame) : Statement (.setWindow frame) := of_kind false rfl rfl

theorem readWindow (frame : Frame) : Statement (.readWindow frame) := of_kind false rfl rfl

theorem setGroup (frame : Frame) : Statement (.setGroup frame) := of_kind false rfl rfl

theorem readGroup (frame : Frame) : Statement (.readGroup frame) := of_kind false rfl rfl

theorem setCurve (frame : Frame) : Statement (.setCurve frame) := of_kind false rfl rfl

theorem readCurve (frame : Frame) : Statement (.readCurve frame) := of_kind false rfl rfl

theorem setLanes (frame : Frame) : Statement (.setLanes frame) := of_kind false rfl rfl

theorem readFireList (frame : Frame) : Statement (.readFireList frame) := of_kind false rfl rfl

theorem setLateLimits (frame : Frame) : Statement (.setLateLimits frame) := of_kind false rfl rfl

theorem loadPhases (frame : Frame) : Statement (.loadPhases frame) := of_kind false rfl rfl

theorem commitPhases (frame : Frame) : Statement (.commitPhases frame) := of_kind false rfl rfl

theorem readPhases (frame : Frame) : Statement (.readPhases frame) := of_kind false rfl rfl

theorem setRail (frame : Frame) : Statement (.setRail frame) := of_kind false rfl rfl

theorem readRail (frame : Frame) : Statement (.readRail frame) := of_kind false rfl rfl

theorem clearRailLatch (frame : Frame) : Statement (.clearRailLatch frame) := of_kind false rfl rfl

theorem setChannel (frame : Frame) (noCurrent : Bool) : Statement (.setChannel frame noCurrent) := of_kind noCurrent rfl rfl

theorem readChannel (frame : Frame) : Statement (.readChannel frame) := of_kind false rfl rfl

theorem fence (frame : Frame) : Statement (.fence frame) := of_kind false rfl rfl

theorem unfence (frame : Frame) : Statement (.unfence frame) := of_kind false rfl rfl

theorem setHoldChannel (frame : Frame) : Statement (.setHoldChannel frame) := of_kind false rfl rfl

theorem setRotorChannel (frame : Frame) : Statement (.setRotorChannel frame) := of_kind false rfl rfl

theorem testFire (frame : Frame) : Statement (.testFire frame) := of_kind false rfl rfl

theorem testHold (frame : Frame) : Statement (.testHold frame) := of_kind false rfl rfl

theorem testRotor (frame : Frame) : Statement (.testRotor frame) := of_kind false rfl rfl

theorem readState (frame : Frame) : Statement (.readState frame) := of_kind false rfl rfl

theorem hush (frame : Frame) : Statement (.hush frame) := of_kind false rfl rfl

theorem sectionReset (frame : Frame) : Statement (.sectionReset frame) := of_kind false rfl rfl

theorem take (frame : Frame) : Statement (.take frame) := of_kind false rfl rfl

theorem release (frame : Frame) : Statement (.release frame) := of_kind false rfl rfl

theorem clearHalt (frame : Frame) : Statement (.clearHalt frame) := of_kind false rfl rfl

theorem setBreakHush (frame : Frame) : Statement (.setBreakHush frame) := of_kind false rfl rfl

theorem readFaults (frame : Frame) : Statement (.readFaults frame) := of_kind false rfl rfl

theorem clearFaults (frame : Frame) : Statement (.clearFaults frame) := of_kind false rfl rfl

theorem setFaultMask (frame : Frame) : Statement (.setFaultMask frame) := of_kind false rfl rfl

theorem setSeverity (frame : Frame) : Statement (.setSeverity frame) := of_kind false rfl rfl

theorem readCapture (frame : Frame) : Statement (.readCapture frame) := of_kind false rfl rfl

theorem clearCapture (frame : Frame) : Statement (.clearCapture frame) := of_kind false rfl rfl

theorem readCounts (frame : Frame) : Statement (.readCounts frame) := of_kind false rfl rfl

theorem readAttention (frame : Frame) : Statement (.readAttention frame) := of_kind false rfl rfl

theorem clearAttention (frame : Frame) : Statement (.clearAttention frame) := of_kind false rfl rfl

theorem maskAttention (frame : Frame) : Statement (.maskAttention frame) := of_kind false rfl rfl

theorem unmaskAttention (frame : Frame) : Statement (.unmaskAttention frame) := of_kind false rfl rfl

theorem call (frame : Frame) : Statement (.call frame) := of_kind false rfl rfl

theorem readExchange (frame : Frame) : Statement (.readExchange frame) := of_kind false rfl rfl

theorem writeExchange (frame : Frame) : Statement (.writeExchange frame) := of_kind false rfl rfl

theorem commit : Statement .commit := of_none rfl

theorem fireTimeArrival : Statement .fireTimeArrival := of_none rfl

theorem lateExpiry (number : BitVec 32) : Statement (.lateExpiry number) := of_none rfl

theorem phaseStart (noCurrent : BitVec 96) : Statement (.phaseStart noCurrent) := of_none rfl

theorem pulseEnd (channel : Fin 96) : Statement (.pulseEnd channel) := of_none rfl

theorem recoveryEnd (channel : Fin 96) (noCurrent : Bool) : Statement (.recoveryEnd channel noCurrent) := of_none rfl

theorem shortReport (channel : Fin 96) : Statement (.shortReport channel) := of_none rfl

theorem rampTimerExpiry (rotor : Fin 2) : Statement (.rampTimerExpiry rotor) := of_none rfl

theorem pendantSilenceExpiry : Statement .pendantSilenceExpiry := of_none rfl

theorem markToSpace (link : Link) : Statement (.markToSpace link) := of_none rfl

end Sys2Proof.Laws.RequestKind
end

