-- ==== Sys2Proof/Laws/Steps.lean ====
section
/-! SUPPORT. Every command, and so every step, is made of the changes that Laws/Changes.lean lists: one lemma per
meaning, and `step_changes`. -/

namespace Sys2Proof.Machine

set_option linter.all false

/-! The requests that change nothing a law speaks of. -/

theorem execReadCue_changes {f : Frame} {s t : State} (h : execReadCue f s = .next t) : Change s t := by
  refine calmRequest_changes h fun act hd u => ?_
  unfold readCueBody at hd
  (repeat' split at hd) <;> cases hd
  all_goals
    try dsimp only [readCueSummary, readCueEntry]
    (repeat' split) <;> first | exact .refl u | (constructor <;> first | rfl | simp)

theorem execSetHorizon_changes {f : Frame} {s t : State} (h : execSetHorizon f s = .next t) : Change s t := by
  refine calmRequest_changes h fun act hd u => ?_
  unfold setHorizonBody at hd
  (repeat' split at hd) <;> cases hd
  all_goals
    refine unlessTaken_calm ?_
    try dsimp only [setHorizonAct]
    (repeat' split) <;> first | exact .refl u | (constructor <;> first | rfl | simp)

theorem execReadStack_changes {f : Frame} {s t : State} (h : execReadStack f s = .next t) : Change s t := by
  refine calmRequest_changes h fun act hd u => ?_
  unfold readStackBody at hd
  (repeat' split at hd) <;> cases hd
  all_goals
    try dsimp only [readStackSummary, readStackAt]
    (repeat' split) <;> first | exact .refl u | (constructor <;> first | rfl | simp)

theorem execReadWindow_changes {f : Frame} {s t : State} (h : execReadWindow f s = .next t) : Change s t := by
  refine calmRequest_changes h fun act hd u => ?_
  unfold readWindowBody at hd
  (repeat' split at hd) <;> cases hd
  all_goals
    try dsimp only [readWindowAct]
    (repeat' split) <;> first | exact .refl u | (constructor <;> first | rfl | simp)

theorem execReadGroup_changes {f : Frame} {s t : State} (h : execReadGroup f s = .next t) : Change s t := by
  refine calmRequest_changes h fun act hd u => ?_
  unfold readGroupBody at hd
  (repeat' split at hd) <;> cases hd
  all_goals
    try dsimp only [readGroupAct]
    (repeat' split) <;> first | exact .refl u | (constructor <;> first | rfl | simp)

theorem execSetCurve_changes {f : Frame} {s t : State} (h : execSetCurve f s = .next t) : Change s t := by
  refine calmRequest_changes h fun act hd u => ?_
  unfold setCurveBody at hd
  split at hd
  · next curve points hf =>
    cases hp : curvePoints points with
    | none => rw [hp] at hd; cases hd
    | some c => 
      rw [hp] at hd; cases hd 
      refine unlessTaken_calm ?_
      (repeat' split) <;> first | exact .refl u | (constructor <;> first | rfl | simp)
  · cases hd

theorem execReadCurve_changes {f : Frame} {s t : State} (h : execReadCurve f s = .next t) : Change s t := by
  refine calmRequest_changes h fun act hd u => ?_
  unfold readCurveBody at hd
  (repeat' split at hd) <;> cases hd
  all_goals
    try dsimp only [readCurvePoints, readCurveAt]
    (repeat' split) <;> first | exact .refl u | (constructor <;> first | rfl | simp)

theorem execReadFireList_changes {f : Frame} {s t : State} (h : execReadFireList f s = .next t) : Change s t := by
  refine calmRequest_changes h fun act hd u => ?_
  unfold readFireListBody at hd
  (repeat' split at hd) <;> cases hd
  all_goals
    try dsimp only [readFireListAct, readStatistics]
    (repeat' split) <;> first | exact .refl u | (constructor <;> first | rfl | simp)

theorem execSetLateLimits_changes {f : Frame} {s t : State} (h : execSetLateLimits f s = .next t) : Change s t := by
  refine calmRequest_changes h fun act hd u => ?_
  unfold setLateLimitsBody at hd
  (repeat' split at hd) <;> cases hd
  all_goals
    refine unlessTaken_calm ?_
    try dsimp only [setLateLimitsAct]
    (repeat' split) <;> first | exact .refl u | (constructor <;> first | rfl | simp)

theorem execLoadPhases_changes {f : Frame} {s t : State} (h : execLoadPhases f s = .next t) : Change s t := by
  refine takeRequest_changes h fun act hd u => ?_
  unfold loadPhasesBody at hd
  (repeat' split at hd) <;> cases hd
  refine unlessTaken_acts fun a ha => ?_
  (repeat' split at ha) <;> subst ha
  · unfold writePending
    split
    · exact .calm (by constructor <;> simp)
    · exact .refl u
  all_goals exact .refl u

theorem execCommitPhases_changes {f : Frame} {s t : State} (h : execCommitPhases f s = .next t) : Change s t := by
  refine calmRequest_changes h fun act hd u => ?_
  unfold commitPhasesBody at hd
  (repeat' split at hd) <;> cases hd
  all_goals
    refine unlessTaken_calm ?_
    try dsimp only [commitPhasesAct]
    (repeat' split) <;> first | exact .refl u | (constructor <;> first | rfl | simp)

theorem execReadPhases_changes {f : Frame} {s t : State} (h : execReadPhases f s = .next t) : Change s t := by
  refine calmRequest_changes h fun act hd u => ?_
  unfold readPhasesBody at hd
  (repeat' split at hd) <;> cases hd
  all_goals
    try dsimp only [readPhasesAct]
    (repeat' split) <;> first | exact .refl u | (constructor <;> first | rfl | simp)

theorem execReadRail_changes {f : Frame} {s t : State} (h : execReadRail f s = .next t) : Change s t := by
  refine calmRequest_changes h fun act hd u => ?_
  unfold readRailBody at hd
  (repeat' split at hd) <;> cases hd
  all_goals
    try dsimp only [readRailAct]
    (repeat' split) <;> first | exact .refl u | (constructor <;> first | rfl | simp)

theorem execReadChannel_changes {f : Frame} {s t : State} (h : execReadChannel f s = .next t) : Change s t := by
  refine calmRequest_changes h fun act hd u => ?_
  unfold readChannelBody at hd
  (repeat' split at hd) <;> cases hd
  all_goals
    try dsimp only [readChannelAct]
    (repeat' split) <;> first | exact .refl u | (constructor <;> first | rfl | simp)

theorem execSetHoldChannel_changes {f : Frame} {s t : State} (h : execSetHoldChannel f s = .next t) : Change s t := by
  refine calmRequest_changes h fun act hd u => ?_
  unfold setHoldChannelBody at hd
  (repeat' split at hd) <;> cases hd
  all_goals
    refine unlessTaken_calm ?_
    try dsimp only [setHoldChannelAct]
    (repeat' split) <;> first | exact .refl u | (constructor <;> first | rfl | simp)

theorem execSetRotorChannel_changes {f : Frame} {s t : State} (h : execSetRotorChannel f s = .next t) : Change s t := by
  refine calmRequest_changes h fun act hd u => ?_
  unfold setRotorChannelBody at hd
  (repeat' split at hd) <;> cases hd
  all_goals
    refine unlessTaken_calm ?_
    try dsimp only [setRotorChannelAct]
    (repeat' split) <;> first | exact .refl u | (constructor <;> first | rfl | simp)

theorem execTestHold_changes {f : Frame} {s t : State} (h : execTestHold f s = .next t) : Change s t := by
  refine calmRequest_changes h fun act hd u => ?_
  unfold testHoldBody at hd
  (repeat' split at hd) <;> cases hd
  all_goals
    try dsimp only [testHoldAct]
    (repeat' split) <;> first | exact .refl u | (constructor <;> first | rfl | simp)

theorem execTestRotor_changes {f : Frame} {s t : State} (h : execTestRotor f s = .next t) : Change s t := by
  refine calmRequest_changes h fun act hd u => ?_
  unfold testRotorBody at hd
  (repeat' split at hd) <;> cases hd
  all_goals
    try dsimp only [testRotorAct]
    (repeat' split) <;> first | exact .refl u | (constructor <;> first | rfl | simp)

theorem execReadState_changes {f : Frame} {s t : State} (h : execReadState f s = .next t) : Change s t := by
  refine calmRequest_changes h fun act hd u => ?_
  unfold readStateBody at hd
  (repeat' split at hd) <;> cases hd
  all_goals
    (repeat' split) <;> first | exact .refl u | (constructor <;> first | rfl | simp)

theorem execSetBreakHush_changes {f : Frame} {s t : State} (h : execSetBreakHush f s = .next t) : Change s t := by
  refine calmRequest_changes h fun act hd u => ?_
  unfold setBreakHushBody at hd
  (repeat' split at hd) <;> cases hd
  all_goals
    refine unlessTaken_calm ?_
    try dsimp only [setBreakHushAct]
    (repeat' split) <;> first | exact .refl u | (constructor <;> first | rfl | simp)

theorem execReadFaults_changes {f : Frame} {s t : State} (h : execReadFaults f s = .next t) : Change s t := by
  refine calmRequest_changes h fun act hd u => ?_
  unfold readFaultsBody at hd
  (repeat' split at hd) <;> cases hd
  all_goals
    (repeat' split) <;> first | exact .refl u | (constructor <;> first | rfl | simp)

theorem execClearFaults_changes {f : Frame} {s t : State} (h : execClearFaults f s = .next t) : Change s t := by
  refine calmRequest_changes h fun act hd u => ?_
  unfold clearFaultsBody at hd
  (repeat' split at hd) <;> cases hd
  all_goals
    try dsimp only [clearFaultsAct]
    split
    · exact calm_changeKinds _ _ u fun _ => rfl
    · exact .refl u

theorem execSetFaultMask_changes {f : Frame} {s t : State} (h : execSetFaultMask f s = .next t) : Change s t := by
  refine calmRequest_changes h fun act hd u => ?_
  unfold setFaultMaskBody at hd
  (repeat' split at hd) <;> cases hd
  all_goals
    try dsimp only [setFaultMaskAct]
    split
    · exact calm_changeKinds _ _ u fun _ => rfl
    · exact .refl u

theorem execSetSeverity_changes {f : Frame} {s t : State} (h : execSetSeverity f s = .next t) : Change s t := by
  refine calmRequest_changes h fun act hd u => ?_
  unfold setSeverityBody at hd
  (repeat' split at hd) <;> cases hd
  all_goals
    try dsimp only [setSeverityAct]
    split
    · next k v _ _ =>
      split
      · exact .refl u
      · next hk => exact calm_fault _ u (by dsimp only; rw [upd_get_ne _ _ _ _ hk])
    · exact .refl u

theorem execReadCapture_changes {f : Frame} {s t : State} (h : execReadCapture f s = .next t) : Change s t := by
  refine calmRequest_changes h fun act hd u => ?_
  unfold readCaptureBody at hd
  (repeat' split at hd) <;> cases hd
  all_goals
    (repeat' split) <;> first | exact .refl u | (constructor <;> first | rfl | simp)

theorem execClearCapture_changes {f : Frame} {s t : State} (h : execClearCapture f s = .next t) : Change s t := by
  refine calmRequest_changes h fun act hd u => ?_
  unfold clearCaptureBody at hd
  (repeat' split at hd) <;> cases hd
  all_goals
    (repeat' split) <;> first | exact .refl u | (constructor <;> first | rfl | simp)

theorem execReadCounts_changes {f : Frame} {s t : State} (h : execReadCounts f s = .next t) : Change s t := by
  refine calmRequest_changes h fun act hd u => ?_
  unfold readCountsBody at hd
  (repeat' split at hd) <;> cases hd
  all_goals
    try dsimp only [readCountsAct]
    split
    · exact calm_fault _ u (by dsimp only; rw [mapAll_get])
    · exact .refl u
    · exact .refl u

theorem execReadAttention_changes {f : Frame} {s t : State} (h : execReadAttention f s = .next t) : Change s t := by
  refine calmRequest_changes h fun act hd u => ?_
  unfold readAttentionBody at hd
  (repeat' split at hd) <;> cases hd
  all_goals
    (repeat' split) <;> first | exact .refl u | (constructor <;> first | rfl | simp)

theorem execClearAttention_changes {f : Frame} {s t : State} (h : execClearAttention f s = .next t) : Change s t := by
  refine calmRequest_changes h fun act hd u => ?_
  unfold clearAttentionBody at hd
  (repeat' split at hd) <;> cases hd
  all_goals
    try dsimp only [clearAttentionAct]
    (repeat' split) <;> first | exact .refl u | (constructor <;> first | rfl | simp)

theorem execMaskAttention_changes {f : Frame} {s t : State} (h : execMaskAttention f s = .next t) : Change s t := by
  refine calmRequest_changes h fun act hd u => ?_
  unfold maskAttentionBody at hd
  (repeat' split at hd) <;> cases hd
  all_goals
    try dsimp only [maskAttentionAct]
    (repeat' split) <;> first | exact .refl u | (constructor <;> first | rfl | simp)

theorem execUnmaskAttention_changes {f : Frame} {s t : State} (h : execUnmaskAttention f s = .next t) : Change s t := by
  refine calmRequest_changes h fun act hd u => ?_
  unfold unmaskAttentionBody at hd
  (repeat' split at hd) <;> cases hd
  all_goals
    try dsimp only [unmaskAttentionAct]
    (repeat' split) <;> first | exact .refl u | (constructor <;> first | rfl | simp)

theorem execCall_changes {f : Frame} {s t : State} (h : execCall f s = .next t) : Change s t := by
  refine calmRequest_changes h fun act hd u => ?_
  unfold callBody at hd
  (repeat' split at hd) <;> cases hd
  all_goals
    try dsimp only [callAct]
    (repeat' split) <;> first | exact .refl u | (constructor <;> first | rfl | simp)

theorem execReadExchange_changes {f : Frame} {s t : State} (h : execReadExchange f s = .next t) : Change s t := by
  refine calmRequest_changes h fun act hd u => ?_
  unfold readExchangeBody at hd
  (repeat' split at hd) <;> cases hd
  all_goals
    try dsimp only [readExchangeAct]
    (repeat' split) <;> first | exact .refl u | (constructor <;> first | rfl | simp)

theorem execWriteExchange_changes {f : Frame} {s t : State} (h : execWriteExchange f s = .next t) : Change s t := by
  refine calmRequest_changes h fun act hd u => ?_
  unfold writeExchangeBody at hd
  (repeat' split at hd) <;> cases hd
  all_goals
    try dsimp only [writeExchangeAct]
    (repeat' split) <;> first | exact .refl u | (constructor <;> simp [storeWords])

/-! The requests that change what the laws speak of. -/

theorem execUnknownRequest_changes {kind : Byte} {f : Frame} {s t : State}
    (h : execUnknownRequest kind f s = .next t) : Change s t := by
  unfold execUnknownRequest at h
  split at h
  · cases h; exact .refl s
  · refine calmRequest_changes h fun act hd u => ?_
    cases hd
    exact .refl u

theorem execSync_changes {f : Frame} {s t : State} (h : execSync f s = .next t) : Change s t := by
  refine takeTimedRequest_changes h fun c act hd u => ?_
  unfold syncBody at hd
  split at hd <;> cases hd
  have calm : ∀ d, Calm u { u with cue.syncOffset := u.cue.syncOffset + d } := fun d => by
    constructor <;> simp
  dsimp only [syncAct]
  split
  · exact .trans (.calm (calm _)) (raise_changes _ _)
  · exact .calm (calm _)

theorem execOpenCue_changes {f : Frame} {s t : State} (h : execOpenCue f s = .next t) : Change s t := by
  refine takeRequest_changes h fun act hd u => ?_
  unfold openCueBody at hd
  split at hd <;> cases hd
  refine unlessTaken_acts fun a ha => ?_
  (split at ha <;> (try dsimp only at ha) <;> (repeat' split at ha)) <;> subst ha
  · next k m _ _ hc =>
    unfold openSlot
    split
    · exact .refl u
    · next hn =>
      simp only [not_or, Decidable.not_not] at hn
      exact .openCue k _ u hn.1 hn.2.1 hn.2.2 hc
  all_goals exact .refl u

theorem execEvents_changes {f : Frame} {s t : State} (h : execEvents f s = .next t) : Change s t := by
  refine takeRequest_changes h fun act hd u => ?_
  unfold eventsBody at hd
  (repeat' split at hd) <;> cases hd
  refine unlessTaken_acts fun a ha => ?_
  (repeat' split at ha) <;> subst ha
  · next k es _ _ _ =>
    unfold writeEvents
    dsimp only
    split
    · exact .refl u
    · next hn =>
      simp only [not_or, Bool.not_eq_true] at hn
      split
      · exact .refl u
      · next ho =>
        split
        · exact .refl u
        · next hl => exact .events k es u hn.2.1 hn.2.2 (by simpa using ho) (by omega)
  all_goals exact .refl u

theorem execNudge_changes {f : Frame} {s t : State} (h : execNudge f s = .next t) : Change s t := by
  refine takeRequest_changes h fun act hd u => ?_
  unfold nudgeBody at hd
  split at hd <;> cases hd
  refine unlessTaken_changes ?_
  (repeat' split) <;> first | exact .refl u | exact .slotDetails _ _ u fun x => ⟨rfl, rfl⟩

theorem execStart_changes {f : Frame} {s t : State} (h : execStart f s = .next t) : Change s t := by
  refine takeRequest_changes h fun act hd u => ?_
  unfold startBody at hd
  split at hd <;> cases hd
  refine unlessTaken_acts fun a ha => ?_
  split at ha <;> subst ha
  · next k _ =>
    unfold startLoaded
    split
    · exact .refl u
    · next hn =>
      simp only [Bool.or_eq_true, bne_iff_ne, ne_eq, not_or, Bool.not_eq_true, Decidable.not_not] at hn
      split
      · exact .takeRole k u hn.1 hn.2
      · exact .enterWaiting k u hn.1 hn.2
  · exact .refl u

theorem execPause_changes {f : Frame} {s t : State} (h : execPause f s = .next t) : Change s t := by
  refine takeRequest_changes h fun act hd u => ?_
  unfold pauseBody at hd
  split at hd <;> cases hd
  refine unlessTaken_changes ?_
  split
  · next k hs hk => exact .pause k u hs hk
  · exact .refl u

theorem execContinueCue_changes {f : Frame} {s t : State} (h : execContinueCue f s = .next t) : Change s t := by
  refine takeRequest_changes h fun act hd u => ?_
  unfold continueBody at hd
  split at hd <;> cases hd
  refine unlessTaken_changes ?_
  split
  · next k hs hk => exact .continue_ k u hs hk
  · exact .refl u

theorem execDropCue_changes {f : Frame} {s t : State} (h : execDropCue f s = .next t) : Change s t := by
  refine takeRequest_changes h fun act hd u => ?_
  unfold dropCueBody at hd
  split at hd <;> cases hd
  refine unlessTaken_changes ?_
  split
  · exact .drop _ u
  · exact .refl u

theorem execSetMask_changes {f : Frame} {s t : State} (h : execSetMask f s = .next t) : Change s t := by
  refine takeRequest_changes h fun act hd u => ?_
  unfold setMaskBody at hd
  split at hd <;> cases hd
  refine unlessTaken_changes ?_
  split
  · unfold applyMask
    dsimp only
    have calm : ∀ m, Calm u { u with arb.baseMask := m } := fun m => by constructor <;> simp
    split
    · next hq => exact .trans (.calm (calm _)) (.judge _ hq)
    · exact .calm (calm _)
  · exact .refl u

theorem changeSetting_changes (k : SlotId) (g : Slot → Slot) (r : ContextRecord → ContextRecord) (u : State)
    (hg : ∀ x, (g x).state = x.state ∧ (g x).ring = x.ring) (hr : ∀ x, (r x).slot = x.slot) :
    Change u (changeSetting k g r u).1 := by
  unfold changeSetting
  split
  · exact .refl u
  · refine .trans (.slotDetails k g u hg) (.calm ?_)
    constructor <;> try simp
    intro a _
    split <;> simp [hr]
  all_goals exact .slotDetails k g u hg

theorem execSetTranspose_changes {f : Frame} {s t : State} (h : execSetTranspose f s = .next t) :
    Change s t := by
  refine takeRequest_changes h fun act hd u => ?_
  unfold setTransposeBody at hd
  split at hd <;> cases hd
  refine unlessTaken_acts fun a ha => ?_
  (repeat' split at ha) <;> subst ha
  · exact changeSetting_changes _ _ _ u (fun x => ⟨rfl, rfl⟩) fun x => rfl
  all_goals exact .refl u

theorem execSetDynamics_changes {f : Frame} {s t : State} (h : execSetDynamics f s = .next t) : Change s t := by
  refine takeRequest_changes h fun act hd u => ?_
  unfold setDynamicsBody at hd
  split at hd <;> cases hd
  refine unlessTaken_acts fun a ha => ?_
  (repeat' split at ha) <;> subst ha
  · exact changeSetting_changes _ _ _ u (fun x => ⟨rfl, rfl⟩) fun x => rfl
  all_goals exact .refl u

theorem execSetWindow_changes {f : Frame} {s t : State} (h : execSetWindow f s = .next t) : Change s t := by
  refine takeRequest_changes h fun act hd u => ?_
  unfold setWindowBody at hd
  split at hd <;> cases hd
  refine unlessTaken_acts fun a ha => ?_
  (split at ha <;> (try dsimp only at ha) <;> (repeat' split at ha)) <;> subst ha
  · next hv =>
    unfold replaceWindow
    split
    · split
      · exact .refl u
      · next ho => exact .window _ _ u hv ho
    · exact .refl u
  all_goals exact .refl u

theorem execSetGroup_changes {f : Frame} {s t : State} (h : execSetGroup f s = .next t) : Change s t := by
  refine takeRequest_changes h fun act hd u => ?_
  unfold setGroupBody at hd
  (repeat' split at hd) <;> cases hd
  refine unlessTaken_acts fun a ha => ?_
  (repeat' split at ha) <;> subst ha
  · unfold replaceGroup
    split
    · split
      · exact .refl u
      · next hm => exact .group _ _ u hm
    · exact .refl u
  all_goals exact .refl u

theorem execSetLanes_changes {f : Frame} {s t : State} (h : execSetLanes f s = .next t) : Change s t := by
  refine takeRequest_changes h fun act hd u => ?_
  unfold setLanesBody at hd
  split at hd <;> cases hd
  · exact .refl u
  · refine unlessTaken_changes ?_
    dsimp only
    split
    · exact .lanes _ u rfl
    · exact .refl u

theorem execSetRail_changes {f : Frame} {s t : State} (h : execSetRail f s = .next t) : Change s t := by
  refine takeRequest_changes h fun act hd u => ?_
  unfold setRailBody at hd
  split at hd <;> cases hd
  refine unlessTaken_changes ?_
  (repeat' split) <;> first | exact .refl u | exact .railSetting _ _ _ u

theorem execClearRailLatch_changes {f : Frame} {s t : State} (h : execClearRailLatch f s = .next t) :
    Change s t := by
  refine takeRequest_changes h fun act hd u => ?_
  unfold clearRailLatchBody at hd
  split at hd <;> cases hd
  refine unlessTaken_changes ?_
  split
  · split
    · exact .refl u
    · next ho => exact .railLatch _ u (by simpa using ho)
  · exact .refl u

theorem execSetChannel_changes {f : Frame} {noCurrent : Bool} {s t : State}
    (h : execSetChannel f noCurrent s = .next t) : Change s t := by
  refine takeRequest_changes h fun act hd u => ?_
  unfold setChannelBody at hd
  split at hd <;> cases hd
  refine unlessTaken_acts fun a ha => ?_
  (split at ha <;> (try dsimp only at ha) <;> (repeat' split at ha)) <;> subst ha
  · unfold configureChannel
    split
    · exact .channel _ _ _ u
    · exact .refl u
  all_goals exact .refl u

theorem execFence_changes {f : Frame} {s t : State} (h : execFence f s = .next t) : Change s t := by
  refine takeRequest_changes h fun act hd u => ?_
  unfold fenceBody at hd
  split at hd <;> cases hd
  unfold fenceAct
  split
  · exact .takeOut _ u
  · exact .refl u

theorem execUnfence_changes {f : Frame} {s t : State} (h : execUnfence f s = .next t) : Change s t := by
  refine takeRequest_changes h fun act hd u => ?_
  unfold unfenceBody at hd
  split at hd <;> cases hd
  refine unlessTaken_changes ?_
  split
  · exact .unfence _ u
  · exact .refl u

theorem execTestFire_changes {f : Frame} {s t : State} (h : execTestFire f s = .next t) : Change s t := by
  refine takeRequest_changes h fun act hd u => ?_
  unfold testFireBody at hd
  split at hd <;> cases hd
  unfold testFireAct
  split
  · split
    · split
      · exact .refl u
      · next hs =>
        split
        · exact .refl u
        · next hl => exact .test _ u (by simpa using hs) (by simpa using hl)
    · exact .refl u
  · exact .refl u

theorem causeHush_changes (u : State) : Change u (causeHush u) := by
  unfold causeHush
  split
  · exact .refl u
  · exact .hush _ _ u

theorem execHush_changes {f : Frame} {s t : State} (h : execHush f s = .next t) : Change s t := by
  refine takeRequest_changes h fun act hd u => ?_
  unfold hushBody at hd
  split at hd <;> cases hd
  exact causeHush_changes u

theorem execSectionReset_changes {f : Frame} {s t : State} (h : execSectionReset f s = .next t) :
    Change s t := by
  refine takeRequest_changes h fun act hd u => ?_
  unfold sectionResetBody at hd
  split at hd <;> cases hd
  refine unlessTaken_changes ?_
  split
  · exact .refl u
  · exact .trans (.calm (calm_fault { u.fault with flags := u.fault.flags &&& ~~~sectionResetFlags } u rfl)) (.hush _ _ _)

theorem forcedTake_changes (u : State) : Change u (forcedTake u) := by
  unfold forcedTake
  dsimp only
  split
  · exact .calm (calm_sect _ u (by rw [startTimer_state]) (by rw [startTimer_halt]))
  · exact .trans (.calm (calm_sect { u.sect with takeover := .claiming } u rfl rfl)) (.hush _ _ _)

theorem execTake_changes {f : Frame} {s t : State} (h : execTake f s = .next t) : Change s t := by
  refine takeRequest_changes h fun act hd u => ?_
  unfold takeBody at hd
  split at hd <;> cases hd
  unfold takeAct
  split
  · exact .refl u
  · split
    · exact .takeover u (.inl (by assumption))
    · exact .takeover u (.inr (by assumption))
    all_goals first | exact .refl u | exact forcedTake_changes u

theorem execRelease_changes {f : Frame} {s t : State} (h : execRelease f s = .next t) : Change s t := by
  refine takeRequest_changes h fun act hd u => ?_
  unfold releaseBody at hd
  split at hd <;> cases hd
  unfold releaseAct
  split
  · next hs =>
    have h1 : Change u (giveBack (removeTests u)) := by
      refine .trans (.removeTests u) (.calm ?_)
      constructor <;> simp [giveBack, setFlag]
    have h2 : (giveBack (removeTests u)).sect.state = .service := by simpa [giveBack, setFlag] using hs
    have h3 : ∀ f ∈ (giveBack (removeTests u)).sched.fireList, f.kind.source ≠ .test := by
      intro f hf
      simp only [giveBack, setFlag] at hf
      simpa using (List.mem_filter.mp hf).2
    unfold releaseSection
    dsimp only
    split
    · exact .trans h1 (.toHalted _ h2 h3)
    · exact .trans h1 (.trans (.toQuiet _ (.inl ⟨h2, h3⟩)) (.judge _ rfl))
  · exact .refl u

theorem execClearHalt_changes {f : Frame} {s t : State} (h : execClearHalt f s = .next t) : Change s t := by
  refine takeRequest_changes h fun act hd u => ?_
  unfold clearHaltBody at hd
  split at hd <;> cases hd
  unfold clearHaltAct
  split
  · exact .refl u
  · next hs =>
    split
    · exact .refl u
    · exact .toQuiet u (.inr (by simpa using hs))

/-! The events. -/

theorem setReceiver_changes (l : Link) (r : ReceiverState) (s : State) : Change s (setReceiver l r s) :=
  .calm (calm_updUnit _ _ _ (Nat.le_refl _))

theorem clearBreak_changes (l : Link) (s : State) : Change s (clearBreak l s) :=
  .calm (calm_updUnit _ _ _ (Nat.le_refl _))

theorem execAddressCharacter_changes {l : Link} {v : Byte} {s t : State}
    (h : execAddressCharacter l v s = .next t) : Change s t := by
  unfold execAddressCharacter at h
  split at h
  · cases h; exact .refl s
  · refine event_changes h (.trans (.trans ?_ (clearBreak_changes _ _)) (setReceiver_changes _ _ _))
    unfold truncate
    split
    · exact raise_changes _ _
    all_goals exact .refl s

theorem takeData_changes (l : Link) (f : Assembly) (v : Byte) (s : State) : Change s (takeData l f v s) := by
  unfold takeData
  split
  · unfold takeLength
    split
    · exact setReceiver_changes _ _ _
    · exact .trans (setReceiver_changes _ _ _) (raise_changes _ _)
  · split
    · exact setReceiver_changes _ _ _
    · unfold takeCheck
      dsimp only
      refine .trans (setReceiver_changes l .hunt s) ?_
      split
      · unfold completeFrame
        split
        · next hb => exact .accept _ _ _ hb
        · exact raise_changes _ _
      · exact raise_changes _ _

theorem execDataCharacter_changes {l : Link} {v : Byte} {s t : State} (h : execDataCharacter l v s = .next t) :
    Change s t := by
  unfold execDataCharacter at h
  split at h
  · cases h; exact .refl s
  · split at h
    · exact event_changes h (.trans (clearBreak_changes _ _) (takeData_changes _ _ _ _))
    all_goals exact event_changes h (clearBreak_changes _ _)

theorem execFramingError_changes {l : Link} {s t : State} (h : execFramingError l s = .next t) : Change s t := by
  unfold execFramingError at h
  split at h
  · cases h; exact .refl s
  · split at h
    · exact event_changes h (.trans (setReceiver_changes _ _ _) (raise_changes _ _))
    · exact event_changes h (setReceiver_changes _ _ _)
    · cases h; exact .refl s

theorem execBreakCondition_changes {l : Link} {s t : State} (h : execBreakCondition l s = .next t) :
    Change s t := by
  unfold execBreakCondition at h
  split at h
  · exact event_changes h (.calm (calm_updUnit _ _ _ (Nat.le_refl _)))
  · cases h; exact .refl s

theorem execLongBreak_changes {s t : State} (h : execLongBreak s = .next t) : Change s t := by
  unfold execLongBreak at h
  split at h
  · refine event_changes h (.trans (t := { s with showUnit.causeLatch := true }) ?_ ?_)
    · exact .calm (by constructor <;> simp)
    · unfold breakCause
      split
      · exact causeHush_changes _
      · exact .refl _
  · cases h; exact .refl s

theorem execLineReturnToMark_changes {l : Link} {s t : State} (h : execLineReturnToMark l s = .next t) :
    Change s t := event_changes h (.calm (calm_updUnit _ _ _ (Nat.le_refl _)))

theorem execMarkToSpace_changes {l : Link} {s t : State} (h : execMarkToSpace l s = .next t) : Change s t := by
  refine event_changes h (.calm (calm_updUnit _ _ _ ?_))
  unfold LinkUnit.toSpace
  split <;> exact Nat.le_refl _

theorem execReplyTransmissionEnd_changes {l : Link} {s t : State}
    (h : execReplyTransmissionEnd l s = .next t) : Change s t := by
  unfold execReplyTransmissionEnd at h
  split at h
  · exact event_changes h (.calm (calm_updUnit _ _ _ (Nat.le_refl _)))
  · cases h; exact .refl s

theorem execCommit_changes {s t : State} (h : execCommit s = .next t) : Change s t := by
  unfold execCommit at h
  split at h
  · next k hk => exact event_changes h (.commit k s hk)
  · cases h; exact .refl s

theorem execFireTimeArrival_changes {s t : State} (h : execFireTimeArrival s = .next t) : Change s t := by
  unfold execFireTimeArrival at h
  split at h
  · next f hf => exact event_changes h (.arrive f s (List.mem_of_find?_eq_some hf))
  · cases h; exact .refl s

theorem execLateExpiry_changes {n : BitVec 32} {s t : State} (h : execLateExpiry n s = .next t) :
    Change s t := by
  unfold execLateExpiry at h
  split at h
  · next f _ =>
    refine event_changes h ?_
    unfold expire
    dsimp only
    refine .trans (.leave f s) ?_
    split
    · refine .trans (.calm ?_) (raise_changes _ _)
      constructor <;> simp
    · exact .refl _
  · cases h; exact .refl s

theorem execPhaseStart_changes {noCurrent : BitVec 96} {s t : State}
    (h : execPhaseStart noCurrent s = .next t) : Change s t := by
  unfold execPhaseStart at h
  split at h
  · exact event_changes h (.phase noCurrent s)
  · cases h; exact .refl s

theorem execPulseEnd_changes {c : ChannelId} {s t : State} (h : execPulseEnd c s = .next t) : Change s t := by
  unfold execPulseEnd at h
  split at h
  · exact event_changes h (.pulseEnd c _ s)
  · cases h; exact .refl s

theorem execRecoveryEnd_changes {c : ChannelId} {noCurrent : Bool} {s t : State}
    (h : execRecoveryEnd c noCurrent s = .next t) : Change s t := by
  unfold execRecoveryEnd at h
  split at h
  · next hr =>
    refine event_changes h (.recoveryEnd c noCurrent s ?_)
    unfold recoveryDue at hr
    split at hr <;> simp_all
  · cases h; exact .refl s

theorem execShortReport_changes {c : ChannelId} {s t : State} (h : execShortReport c s = .next t) :
    Change s t :=
  event_changes h (.trans (.short c s) (raise_changes _ _))

theorem execRampTimerExpiry_changes {m : RotorId} {s t : State} (h : execRampTimerExpiry m s = .next t) :
    Change s t := by
  unfold execRampTimerExpiry at h
  split at h
  · next e _ =>
    refine event_changes h ?_
    have : Change s (updRotor m (.ramp e) s) := .calm (by constructor <;> simp)
    unfold rampRotor
    dsimp only
    split
    · exact .trans this (.complete _)
    · exact this
  · cases h; exact .refl s

theorem execPendantSilenceExpiry_changes {s t : State} (h : execPendantSilenceExpiry s = .next t) :
    Change s t := by
  unfold execPendantSilenceExpiry at h
  split at h
  · refine event_changes h ?_
    unfold pendantLost
    dsimp only
    refine .trans (raise_changes { kind := .pendantLost, origin := .link .servicePort, detail := .nothing } s) ?_
    generalize raise { kind := .pendantLost, origin := .link .servicePort, detail := .nothing } s = u
    have h1 : Change u (silenceHush u) := by
      unfold silenceHush
      split
      · exact .calm (calm_sect _ u rfl rfl)
      · exact .hush _ _ u
    refine .trans h1 (.calm ?_)
    generalize silenceHush u = v
    unfold loseTakeover
    dsimp only
    split <;> (constructor <;> simp [setFlag])
  · cases h; exact .refl s

/-- Every command's outcome is made of the listed changes. -/
theorem exec_changes (c : Instr) {s t : State} (h : exec c s = .next t) : Change s t := by
  cases c with
  | powerOn a r x y => cases h; exact .powerOn a r x y _ _ s
  | addressCharacter _ _ => exact execAddressCharacter_changes h
  | dataCharacter _ _ => exact execDataCharacter_changes h
  | framingError _ => exact execFramingError_changes h
  | breakCondition _ => exact execBreakCondition_changes h
  | longBreak => exact execLongBreak_changes h
  | lineReturnToMark _ => exact execLineReturnToMark_changes h
  | replyTransmissionEnd _ => exact execReplyTransmissionEnd_changes h
  | unknownRequest _ _ => exact execUnknownRequest_changes h
  | openCue _ => exact execOpenCue_changes h
  | events _ => exact execEvents_changes h
  | readCue _ => exact execReadCue_changes h
  | setHorizon _ => exact execSetHorizon_changes h
  | sync _ => exact execSync_changes h
  | nudge _ => exact execNudge_changes h
  | start _ => exact execStart_changes h
  | pause _ => exact execPause_changes h
  | continueCue _ => exact execContinueCue_changes h
  | dropCue _ => exact execDropCue_changes h
  | setMask _ => exact execSetMask_changes h
  | setTranspose _ => exact execSetTranspose_changes h
  | setDynamics _ => exact execSetDynamics_changes h
  | readStack _ => exact execReadStack_changes h
  | setWindow _ => exact execSetWindow_changes h
  | readWindow _ => exact execReadWindow_changes h
  | setGroup _ => exact execSetGroup_changes h
  | readGroup _ => exact execReadGroup_changes h
  | setCurve _ => exact execSetCurve_changes h
  | readCurve _ => exact execReadCurve_changes h
  | setLanes _ => exact execSetLanes_changes h
  | readFireList _ => exact execReadFireList_changes h
  | setLateLimits _ => exact execSetLateLimits_changes h
  | loadPhases _ => exact execLoadPhases_changes h
  | commitPhases _ => exact execCommitPhases_changes h
  | readPhases _ => exact execReadPhases_changes h
  | setRail _ => exact execSetRail_changes h
  | readRail _ => exact execReadRail_changes h
  | clearRailLatch _ => exact execClearRailLatch_changes h
  | setChannel _ _ => exact execSetChannel_changes h
  | readChannel _ => exact execReadChannel_changes h
  | fence _ => exact execFence_changes h
  | unfence _ => exact execUnfence_changes h
  | setHoldChannel _ => exact execSetHoldChannel_changes h
  | setRotorChannel _ => exact execSetRotorChannel_changes h
  | testFire _ => exact execTestFire_changes h
  | testHold _ => exact execTestHold_changes h
  | testRotor _ => exact execTestRotor_changes h
  | readState _ => exact execReadState_changes h
  | hush _ => exact execHush_changes h
  | sectionReset _ => exact execSectionReset_changes h
  | take _ => exact execTake_changes h
  | release _ => exact execRelease_changes h
  | clearHalt _ => exact execClearHalt_changes h
  | setBreakHush _ => exact execSetBreakHush_changes h
  | readFaults _ => exact execReadFaults_changes h
  | clearFaults _ => exact execClearFaults_changes h
  | setFaultMask _ => exact execSetFaultMask_changes h
  | setSeverity _ => exact execSetSeverity_changes h
  | readCapture _ => exact execReadCapture_changes h
  | clearCapture _ => exact execClearCapture_changes h
  | readCounts _ => exact execReadCounts_changes h
  | readAttention _ => exact execReadAttention_changes h
  | clearAttention _ => exact execClearAttention_changes h
  | maskAttention _ => exact execMaskAttention_changes h
  | unmaskAttention _ => exact execUnmaskAttention_changes h
  | call _ => exact execCall_changes h
  | readExchange _ => exact execReadExchange_changes h
  | writeExchange _ => exact execWriteExchange_changes h
  | commit => exact execCommit_changes h
  | fireTimeArrival => exact execFireTimeArrival_changes h
  | lateExpiry _ => exact execLateExpiry_changes h
  | phaseStart _ => exact execPhaseStart_changes h
  | pulseEnd _ => exact execPulseEnd_changes h
  | recoveryEnd _ _ => exact execRecoveryEnd_changes h
  | shortReport _ => exact execShortReport_changes h
  | rampTimerExpiry _ => exact execRampTimerExpiry_changes h
  | pendantSilenceExpiry => exact execPendantSilenceExpiry_changes h
  | markToSpace _ => exact execMarkToSpace_changes h

/-- Every step is made of the listed changes. -/
theorem step_changes {s t : State} (h : step s = .next t) : Change s t := by
  unfold step at h
  split at h
  · next c rest _ =>
    exact .trans (t := { s with pending := rest }) (.calm (by constructor <;> simp)) (exec_changes c h)
  · unfold idle at h
    split at h
    · next c _ =>
      exact .trans (t := countFree s) (.calm (by constructor <;> simp [countFree])) (exec_changes c h)
    · cases h
      refine .calm ?_
      split <;> (constructor <;> simp [passTime, countFree])

/-- A law that every change keeps is kept by every step. -/
theorem law_of_changes {law : State → Prop} (hl : ∀ s t, Change s t → law s → law t) (s t : State) (hs : law s)
    (h : step s = .next t) : law t := hl s t (step_changes h) hs
end Sys2Proof.Machine
end

