-- ==== Sys2Proof/Tests/Slice0.lean ====
section
/-! SUPPORT. Checks of the model's own: the well-formedness checks with a term each refuses, the worked examples of
the manual, and for the statements of Certificates/Slice0/Obligations.lean a state and operands that meet the
hypotheses of each clause, at the ends of its ranges. -/

namespace Sys2Proof.Tests

open Sys2Proof.Machine Sys2Proof.Machine.Safety

set_option maxRecDepth 20000
-- One check at a time: many at once take more threads and memory than a machine may have.
set_option Elab.async false

/-! ### Helpers -/

/-- A frame of the pendant, with tag 1. -/
def pend (fields : List Byte) : Frame := { link := .servicePort, address := 0, tag := 1, fields := fields }

/-- A frame addressed to the part of `State.reset` on the show link. -/
def addr (fields : List Byte) : Frame := { link := .showLink, address := 0, tag := 1, fields := fields }

/-- A broadcast frame. -/
def toAll (fields : List Byte) : Frame := { link := .showLink, address := 31, tag := 1, fields := fields }

/-- The part at power-on with all straps 0 and both lines at mark. -/
def base : State := State.powerOn 0 0 false false 0 []

def inSection (st : SectionState) : State := { base with sect.state := st }

/-- `base` at a part time. -/
def atTime (t : Nat) (s : State) : State := { s with partTime := t }

def nextOf (o : Host.Outcome State Fault Refusal) : Option State :=
  match o with
  | .next t => some t
  | .fault _ => none
  | .refused _ => none

/-- The reply that a command leaves in the shifter, from its code on. -/
def replyOn (l : Link) (o : Host.Outcome State Fault Refusal) : Option (List Byte) :=
  (nextOf o).bind fun t => (t.unit l).shifter.map fun x => x.frame.body.drop 2

/-- Something a command leaves. -/
def after {α : Type} (g : State → α) (c : Instr) (s : State) : Option α := (nextOf (exec c s)).map g

def canOffer (f : Frame) (s : State) : Bool :=
  (s.unit f.link).buffers.isEmpty && f.bodyFits && takesAddress s.settings f.link f.address &&
    s.sect.silenceTimer.isNone

theorem presented {kind : Byte} {f : Frame} {s : State} (h : canOffer f s = true) :
    presentFrame kind f s = some (s.now, s) := by
  simp only [canOffer, Bool.and_eq_true, List.isEmpty_iff, Option.isNone_iff_eq_none] at h
  obtain ⟨⟨⟨hb, hf⟩, ha⟩, ht⟩ := h
  have hn : notePendantFrame f.link s = s := by
    cases f.link
    · rfl
    · simp [notePendantFrame, SectionRecord.restartTimer, ht]
  simp [presentFrame, hb, hf, ha, hn]

/-- The frames are offered in `s`, and the command of each is answered with the code. -/
def AllAnswer (kind : Byte) (c : Frame → Instr) (s : State) (code : Byte) (frames : List Frame) : Prop :=
  ∀ f ∈ frames, Offered kind f s s ∧ (replyOn f.link (exec (c f) s)).map (List.take 1) = some [code]

theorem allAnswer {kind : Byte} {c : Frame → Instr} {s : State} {code : Byte} {frames : List Frame}
    (h : ∀ f ∈ frames, canOffer f s = true ∧ isBroadcast f = false ∧
      (replyOn f.link (exec (c f) s)).map (List.take 1) = some [code]) : AllAnswer kind c s code frames :=
  fun f hf => ⟨⟨⟨_, presented (h f hf).1⟩, (h f hf).2.1⟩, (h f hf).2.2⟩

theorem offered {kind : Byte} {f : Frame} {s : State} (h : canOffer f s = true ∧ isBroadcast f = false) :
    Offered kind f s s := ⟨⟨_, presented h.1⟩, h.2⟩

theorem offeredToAll {kind : Byte} {f : Frame} {s : State} (h : canOffer f s = true ∧ isBroadcast f = true) :
    OfferedToAll kind f s s := ⟨⟨_, presented h.1⟩, h.2⟩

/-! ### Well-formedness -/

/-- A body of more than 60 bytes is refused, and its command changes nothing. -/
theorem test_wellFormed_body : (Instr.readState (pend (List.replicate 58 0))).wellFormed = true ∧
    (Instr.readState (pend (List.replicate 59 0))).wellFormed = false ∧
    exec (.readState (pend (List.replicate 59 0))) base = .next base := ⟨by decide, by decide, rfl⟩

/-- A show-link frame to an address character above 31 is refused. -/
theorem test_wellFormed_address :
    (Instr.readState { link := .showLink, address := 31, tag := 1, fields := [] }).wellFormed = true ∧
    (Instr.readState { link := .showLink, address := 32, tag := 1, fields := [] }).wellFormed = false ∧
    (Instr.readState { link := .servicePort, address := 32, tag := 1, fields := [] }).wellFormed = true := by decide

/-- UNKNOWN REQUEST with the kind byte of a request is refused, and changes nothing. -/
theorem test_wellFormed_kind : (Instr.unknownRequest 0x16 (pend [])).wellFormed = true ∧
    (Instr.unknownRequest 0x70 (pend [])).wellFormed = false ∧
    exec (.unknownRequest 0x70 (pend [])) base = .next base := ⟨by decide, by decide, rfl⟩

/-- No row of the table gives bits. -/
theorem test_decode_none : decodeTableWord 8 0 = none ∧ (base.withFetchWord 8 0).pending = [] := by decide

/-! ### The machine -/

theorem test_idle_nothingDue : let s := atTime 1 base
    s.pending = [] ∧ dueEvents s = [] ∧ presentedCommands s = [] := by decide +kernel

theorem test_idle_due : base.pending = [] ∧ dueEvents base ≠ [] :=
  ⟨rfl, by rw [show dueEvents base = [.phaseStart (Config.noCoilCurrent 0)] from rfl]; simp⟩

/-- The oldest frame of the show link was presented at 1 µs: from 201 µs on the part takes it before time goes on. -/
theorem test_idle_presented :
    let b : BufferedFrame := { address := 0, body := [0x70, 1], completed := 0 }
    let s (now : Nat) := atTime now (updUnit .showLink (fun u => { u with buffers := [b], presentedAt := some 1 }) base)
    (∀ now ∈ [1, 200, 201], (s now).pending = [] ∧ dueEvents (s now) = [] ∧
      presentedCommands (s now) = [.readState (addr [])]) ∧
    [200, 201].map (fun now => mayPass (s now)) = [true, false] ∧
    (nextOf (step (s 201))).map (fun t => (t.partTime, t.showUnit.buffers)) = some (201, []) := by decide +kernel

theorem test_step_front : (match step { base with pending := [.setHorizon (pend [5]), .longBreak] } with
    | .next t => some (t.cue.horizonMs, t.pending)
    | _ => none) = some (5, [.longBreak]) := by decide +kernel

/-- The strap notice of a part strapped 31 (08 R153). -/
theorem test_powerOn_strapNotice : after (fun t => (t.fault.capture.isSome, t.fault.flags)) (.powerOn 31 0 true false) base =
    some (true, 0x0802) := by decide +kernel

/-! ### The end of an event -/

/-- A slot that sounds from tick 0 at show time 0, with these entries unplayed. -/
def soundingWith (unplayed : List Event) (x : Slot) : Slot :=
  { x with
    state := .sounding, priority := 3, anchor := .set 0 0 500000, ring := { x.ring with unplayed := unplayed } }

/-- Slot A sounds in PLAYING with these entries unplayed. -/
def playing (unplayed : List Event) : State := updSlot 0 (soundingWith unplayed) (inSection .playing)

def refA : EntryRef := { slot := 0, place := 0, tick := 0 }

def holdFiring (n : Nat) (time : Time) : Firing :=
  { number := BitVec.ofNat 32 n, fireTime := time, state := .waiting, kind := .hold refA 0 true }

/-- `n` firings of slot A are planned at 9 s. -/
def planned (n : Nat) (s : State) : State :=
  { s with sched := { s.sched with fireList := (List.range n).map fun i => holdFiring i 9000000 } }

def markAt (tick : Nat) : Event := { tick := tick, data := .mark 7 }

/-- Slot A's mark waits on the space of a list of 64; with 63 its commit is due, and so is a TEMPO's with 64. -/
theorem test_witness_EndOfEvent :
    WaitsOnSpace (planned 64 (playing [markAt 0])) ∧ CommitDueIn 0 (planned 63 (playing [markAt 0])) ∧
    CommitDueIn 0 (planned 64 (playing [{ tick := 0, data := .tempo 500000 }])) ∧
    waitsOnSpace (planned 64 (playing [markAt 0])) = true ∧ waitsOnSpace (planned 63 (playing [markAt 0])) = false ∧
    commitReady (planned 63 (playing [markAt 0])) = some 0 ∧ commitReady (planned 64 (playing [markAt 0])) = none :=
  ⟨⟨0, markAt 0, ⟨rfl, by decide, rfl, 0, 0, 500000, rfl, by decide⟩, trivial, by decide⟩,
    ⟨markAt 0, ⟨rfl, by decide, rfl, 0, 0, 500000, rfl, by decide⟩, fun _ => by decide⟩,
    ⟨_, ⟨rfl, by decide, rfl, 0, 0, 500000, rfl, by decide⟩, False.elim⟩,
    by decide +kernel, by decide +kernel, by decide +kernel, by decide +kernel⟩

/-- 64 firings, of which the first arrives now. -/
def oneArrives (unplayed : List Event) : State :=
  let s := planned 63 (playing unplayed)
  { s with sched := { s.sched with fireList := holdFiring 64 0 :: s.sched.fireList } }

/-- The arrival leaves one place. The mark at tick 0 takes it and acts at once, the first mark at tick 12 takes it next,
and the second waits on. With a fatal cause raised too, the commit comes before the hush. -/
theorem test_witness_EndOfEvent_run :
    after (fun t => (t.cue.slots[0].ring.unplayed, t.cue.slots[0].ring.retained.length, t.sched.fireList.length,
        t.sched.lastMark.map LastMark.number))
      .fireTimeArrival (oneArrives [markAt 0, markAt 12, markAt 12]) = some ([markAt 12], 1, 64, some 7) ∧
    after (fun t => (t.sect.state, t.sched.lastMark.map LastMark.number, t.fault.fatalDue)) .fireTimeArrival
      { oneArrives [markAt 0] with fault.fatalDue := true } = some (.halted, some 7, false) := by decide +kernel

def fatalDue (s : State) : State := { s with fault.fatalDue := true }

theorem test_witness_FatalCause :
    (fatalDue (inSection .hushing)).fault.fatalDue = true ∧ (fatalDue (inSection .hushing)).sect.state = .hushing ∧
    (fatalDue (inSection .service)).fault.fatalDue = true ∧ (deliverFatal (fatalDue (inSection .service))).sect.state = .service ∧
    (deliverFatal (fatalDue (playing []))).sect.state = .halted := by decide +kernel

/-! ### The links -/

def withUnit (l : Link) (f : LinkUnit → LinkUnit) : State := atTime 5000 (updUnit l f base)

def collecting (length : Option Byte) (body : List Byte) (l : Link) : State :=
  withUnit l fun u => { u with receiver := .collect { address := 0, length := length, body := body, check := 0x11 } }

/-- After a break, still at space. -/
def deafUnit (u : LinkUnit) : LinkUnit := { u with breakFlag := true, spaceStart := some 0 }

def kindCount (k : ErrorKind) (t : State) : Nat := t.fault.kinds[k.number].count

theorem test_witness_AddressCharacter : ((withUnit .showLink deafUnit).unit .showLink).deaf = true ∧
    after (fun t => t.showUnit.receiver) (.addressCharacter .showLink 31) base =
      some (.collect { address := 31, length := none, body := [], check := 0x5D }) ∧
    after (fun t => t.showUnit.receiver) (.addressCharacter .showLink 1) base = some .skip ∧
    after (kindCount .linkTruncated) (.addressCharacter .showLink 32) (collecting none [] .showLink) = some 1 := by
  decide +kernel

theorem test_witness_DataCharacter_length :
    let s := collecting none [] .showLink
    [1, 2, 60, 61].map (fun v => after (fun t => (t.showUnit.receiver == .skip, kindCount .linkFraming t))
      (.dataCharacter .showLink v) s) = [some (true, 1), some (false, 0), some (false, 0), some (true, 1)] ∧
    after (fun t => t.showUnit.receiver) (.dataCharacter .showLink 0) base = some .hunt := by decide +kernel

def stored : BufferedFrame := { address := 0, body := [0x70, 1], completed := 0 }

theorem test_witness_DataCharacter_check :
    let s := collecting (some 2) [0x70, 1] .servicePort
    after (fun t => t.serviceUnit.receiver == .hunt) (.dataCharacter .servicePort 9) (collecting (some 2) [0x70] .servicePort) =
      some false ∧
    after (kindCount .linkCheck) (.dataCharacter .servicePort 0x12) s = some 1 ∧
    after (fun t => t.serviceUnit.buffers.length) (.dataCharacter .servicePort 0x11) s = some 1 ∧
    after (fun t => (t.serviceUnit.buffers.length, kindCount .linkOverrun t)) (.dataCharacter .servicePort 0x11)
      (updUnit .servicePort (fun u => { u with buffers := [stored, stored] }) s) = some (2, 1) := by decide +kernel

/-- The frame of 10 Table 10.4.1. -/
theorem test_frameCheck : frameCheck 0x05 [0x70, 0x01] = 0x3D := by decide

/-- At 125 kbit/s two characters last 176 µs. -/
theorem test_witness_LineEvents_break :
    let s (now : Nat) := atTime now (updUnit .showLink (fun u => { u with spaceStart := some 0, receiver := .skip }) base)
    after (fun t => t.showUnit.breakFlag) (.breakCondition .showLink) (s 175) = some false ∧
    after (fun t => t.showUnit.breakFlag) (.breakCondition .showLink) (s 176) = some true ∧
    after (fun t => t.showUnit.receiver) (.framingError .showLink) (s 1) = some .hunt ∧
    after (kindCount .linkFraming) (.framingError .showLink) (collecting none [] .showLink) = some 1 ∧
    exec (.framingError .showLink) base = .next base ∧
    after (fun t => t.showUnit.spaceStart) (.lineReturnToMark .showLink) (s 1) = some none ∧
    after (fun t => t.serviceUnit.spaceStart) (.markToSpace .servicePort) (s 3) = some (some 3) :=
  ⟨by decide +kernel, by decide +kernel, by decide +kernel, by decide +kernel, rfl, by decide +kernel, by decide +kernel⟩

theorem test_witness_LineEvents_longBreak :
    let s (now : Nat) (st : SectionState) :=
      atTime now (updUnit .showLink (fun u => { u with spaceStart := some 0 }) (inSection st))
    after (fun t => (t.showUnit.causeLatch, t.sect.state)) .longBreak (s 1999 .playing) = some (false, .playing) ∧
    after (fun t => (t.showUnit.causeLatch, t.sect.state)) .longBreak (s 2000 .playing) = some (true, .quiet) ∧
    after (fun t => (t.showUnit.causeLatch, t.sect.state)) .longBreak (s 2000 .hushing) = some (true, .hushing) := by
  decide +kernel

def reply2 : ReplyFrame := { address := 0, body := [0x70, 1, 4] }

/-- The eleven bits of a character, the start bit first, and the commands of a received one (09 R166). -/
theorem test_characterBits : Character.bits { marker := true, data := 0x05 } = 0b11000001010#11 ∧
    [0b11000001010#11, 0b10000001010#11, 0b01000001010#11].map (receivedCharacter .showLink) =
      [.addressCharacter .showLink 5, .dataCharacter .showLink 5, .framingError .showLink] := by decide +kernel

/-- At 125 kbit/s a bit lasts 8 µs: the start bit, the first data bit, the marker and the stop bit of the address
character, the start bit and the marker of the next, and the line behind the last character. -/
theorem test_witness_FrameCheck_line :
    let s (now : Nat) := atTime now (updUnit .showLink (fun u => { u with shifter := some ⟨reply2, 0⟩ }) base)
    [0, 7, 8, 72, 80, 88, 160, 528].map (fun now => transmitLevel (s now) .showLink) =
      [some false, some false, some false, some true, some true, some false, some false, some true] ∧
    reply2.characters[0]? = some ⟨true, 0⟩ ∧ reply2.characters[5]? = some ⟨false, frameCheck 0 reply2.body⟩ ∧
    transmitLevel base .showLink = none ∧ transmitLevel base .servicePort = some true := by decide +kernel

/-- At 125 kbit/s the six characters of a frame of three body bytes last 528 µs. -/
theorem test_witness_BuffersAndReplies_shifter :
    let s (now : Nat) := atTime now (updUnit .showLink (fun u =>
      { u with shifter := some { frame := reply2, since := 0 }, replySlot := some reply2 }) base)
    after (fun t => t.showUnit.shifter) (.replyTransmissionEnd .showLink) (s 527) = some (some ⟨reply2, 0⟩) ∧
    after (fun t => t.showUnit.shifter) (.replyTransmissionEnd .showLink) (s 528) = some (some ⟨reply2, 528⟩) ∧
    after (kindCount .replyLost) (.hush (addr [])) (s 1) = some 1 ∧
    exec (.replyTransmissionEnd .showLink) base = .next base :=
  ⟨by decide +kernel, by decide +kernel, by decide +kernel, rfl⟩

theorem test_witness_BuffersAndReplies_slot : after (fun t => t.showUnit.replySlot.isSome) (.hush (addr []))
    (updUnit .showLink (fun u => { u with shifter := some { frame := reply2, since := 0 } }) base) = some true := by
  decide +kernel

theorem test_witness_BuffersAndReplies_presented :
    let s := updUnit .showLink (fun u => { u with buffers := [stored, stored], presentedAt := some 0 }) base
    (s.unit (addr []).link).buffers = stored :: [stored] ∧ stored.address = (addr []).address ∧
    stored.body = 0x70 :: (addr []).tag :: (addr []).fields ∧
    after (fun t => t.showUnit.buffers.length) (.readState (addr [])) s = some 1 := by decide +kernel

theorem test_witness_Envelope_unknown :
    AllAnswer 0x16 (.unknownRequest 0x16) base 1 [pend [], addr []] ∧
    AllAnswer 0x14 .sync base 1 [pend [0, 0, 0, 0, 0, 0], addr []] ∧
    AllAnswer 0x73 .take base 1 [addr [1]] ∧ AllAnswer 0x8B .call base 1 [addr [0]] :=
  ⟨allAnswer (by decide +kernel), allAnswer (by decide +kernel), allAnswer (by decide +kernel), allAnswer (by decide +kernel)⟩

theorem test_witness_Envelope_length :
    AllAnswer 0x70 .readState base 2 [pend [0]] ∧ AllAnswer 0x11 .events base 2 [pend [0, 1], pend [0], pend [0, 0, 0]] ∧
    AllAnswer 0x73 .take base 2 [pend []] ∧ lengthSuits 0x11 [0, 1] = false ∧ lengthSuits 0x73 [] = false :=
  ⟨allAnswer (by decide +kernel), allAnswer (by decide +kernel), allAnswer (by decide +kernel), by decide, by decide⟩

theorem test_witness_Envelope_broadcast :
    OfferedToAll 0x70 (toAll []) base base ∧ OfferedToAll 0x71 (toAll [0]) base base ∧
    exec (.readState (toAll [])) base = .next base ∧ exec (.hush (toAll [0])) base = .next base :=
  ⟨offeredToAll (by decide), offeredToAll (by decide), rfl, rfl⟩

theorem test_witness_TakenInService :
    AllAnswer 0x13 .setHorizon (inSection .service) 5 [addr [4], addr [5]] ∧
    AllAnswer 0x36 .setLanes (inSection .service) 5 [addr [1, 0, 0, 0, 0, 0, 0, 0]] ∧
    AllAnswer 0x72 .sectionReset (inSection .service) 5 [addr []] ∧
    FromShowInService (addr []) (inSection .service) :=
  ⟨allAnswer (by decide +kernel), allAnswer (by decide +kernel), allAnswer (by decide +kernel), rfl, rfl⟩

/-! ### Cue engine -/

def openFields (slot priority : Byte) (tempo : List Byte) (rest : List Byte) : Frame :=
  pend ([slot, priority] ++ tempo ++ rest)

def slowest : List Byte := [0x1E, 0x84, 0x80]
def fastest : List Byte := [0x03, 0x0D, 0x40]

theorem test_witness_OpenCue_range : AllAnswer 0x10 .openCue base 3
    [openFields 4 0 fastest [1, 0, 0, 20, 0], openFields 0 8 fastest [1, 0, 0, 20, 0],
     openFields 0 0 [0x03, 0x0D, 0x3F] [1, 0, 0, 20, 0], openFields 0 0 [0x1E, 0x84, 0x81] [1, 0, 0, 20, 0],
     openFields 0 0 fastest [0, 0, 0, 20, 0], openFields 0 0 fastest [17, 0, 0, 20, 0],
     openFields 0 0 fastest [1, 3, 0, 20, 0], openFields 0 0 fastest [1, 0, 0, 19, 0],
     openFields 0 0 fastest [1, 0, 7, 0xD1, 0]] := allAnswer (by decide +kernel)

theorem test_witness_OpenCue_state :
    AllAnswer 0x10 .openCue (inSection .halted) 4 [openFields 0 0 fastest [1, 0, 0, 20, 0]] ∧
    AllAnswer 0x10 .openCue (inSection .hushing) 4 [openFields 0 0 fastest [1, 0, 0, 20, 0]] ∧
    AllAnswer 0x10 .openCue (playing []) 4 [openFields 0 0 fastest [1, 0, 0, 20, 0]] :=
  ⟨allAnswer (by decide +kernel), allAnswer (by decide +kernel), allAnswer (by decide +kernel)⟩

theorem test_witness_OpenCue_done : base.cue.slots[3].state = .empty ∧
    AllAnswer 0x10 .openCue base 0
      [openFields 3 7 fastest [1, 0, 0, 20, 0], openFields 0 0 slowest [16, 2, 7, 0xD0, 255]] :=
  ⟨by decide +kernel, allAnswer (by decide +kernel)⟩

def endAt (tick : Nat) : Event := { tick := tick, data := .ending }

theorem test_witness_EventRecordRoundTrip :
    [{ tick := 4294967295, data := .note 127 127 7 }, { tick := 0, data := .note 0 1 0 }, ⟨0, .hold 3 true⟩,
      ⟨0, .rotor 1 120⟩, ⟨0, .tempo 200000⟩, ⟨0, .tempo 2000000⟩, ⟨0, .meter 1⟩, ⟨0, .meter 16⟩, ⟨0, .mark 255⟩,
      endAt 1].all (fun e => eventRecords (Event.bytes e ++ [0]) == [some e]) = true ∧
    EventInRange { tick := 4294967295, data := .note 127 127 7 } ∧ EventInRange ⟨0, .tempo 2000000⟩ :=
  ⟨by decide +kernel, ⟨by decide, by decide, by decide, by decide⟩, by decide, by decide, by decide⟩

/-- A loaded slot A with these entries unplayed. -/
def loaded (unplayed : List Event) : State :=
  updSlot 0 (fun x => { x with state := .loaded, ring := { x.ring with unplayed := unplayed } }) base

def mark8 (tick : Byte) : List Byte := [0, 0, 0, tick, 6, 9, 0, 0]
def end8 (tick : Byte) : List Byte := [0, 0, 0, tick, 7, 0, 0, 0]

theorem test_witness_Events_range : AllAnswer 0x11 .events (loaded []) 3
    [pend (4 :: 1 :: mark8 0), pend [0, 0], pend (0 :: 7 :: (List.replicate 7 (mark8 0)).flatten),
     pend [0, 1, 0, 0, 0, 0, 0, 0, 0, 0], pend [0, 1, 0, 0, 0, 0, 1, 128, 1, 0]] := allAnswer (by decide +kernel)

theorem test_witness_Events_state : AllAnswer 0x11 .events base 4 [pend (0 :: 1 :: mark8 0)] ∧
    AllAnswer 0x11 .events (updSlot 0 (fun x => { x with ring.closed := true }) (loaded [])) 4 [pend (0 :: 1 :: mark8 0)] ∧
    AllAnswer 0x11 .events { loaded [] with sect.state := .halted } 4 [pend (0 :: 1 :: mark8 0)] :=
  ⟨allAnswer (by decide +kernel), allAnswer (by decide +kernel), allAnswer (by decide +kernel)⟩

theorem test_witness_Events_order : AllAnswer 0x11 .events (loaded [markAt 5]) 7
    [pend (0 :: 1 :: mark8 4), pend (0 :: 2 :: mark8 6 ++ mark8 5), pend (0 :: 2 :: end8 6 ++ mark8 6)] :=
  allAnswer (by decide +kernel)

theorem test_witness_Events_full :
    AllAnswer 0x11 .events (loaded (List.replicate 255 (markAt 5))) 6 [pend (0 :: 2 :: mark8 5 ++ mark8 5)] ∧
    AllAnswer 0x11 .events (loaded (List.replicate 255 (markAt 5))) 0 [pend (0 :: 1 :: end8 5)] :=
  ⟨allAnswer (by decide +kernel), allAnswer (by decide +kernel)⟩

/-- Slot A sounds with its anchor pending. -/
def underrun : State := updSlot 0 (fun x => { x with anchor := .pending 400000 }) (playing [])

theorem test_witness_Events_done : AllAnswer 0x11 .events (loaded []) 0 [pend (0 :: 6 :: (List.replicate 6 (mark8 0)).flatten)] ∧
    BatchInOrder 0 [markAt 5, markAt 5, endAt 5] ∧
    after (fun t => (t.cue.slots[0].anchor, t.cue.slots[0].ring.unplayed)) (.events (pend (0 :: 1 :: mark8 5))) underrun =
      some (.set 5 100000 400000, [⟨5, .mark 9⟩]) ∧
    after (fun t => (t.cue.slots[0].anchor, t.cue.slots[0].ring.closed)) (.events (pend (0 :: 1 :: end8 5))) (playing []) =
      some (.set 0 0 500000, true) :=
  ⟨allAnswer (by decide +kernel), by unfold BatchInOrder; decide, by decide +kernel, by decide +kernel⟩

theorem test_witness_PartSettings :
    AllAnswer 0x13 .setHorizon base 3 [pend [4], pend [101]] ∧ AllAnswer 0x13 .setHorizon base 0 [addr [5], pend [100]] ∧
    AllAnswer 0x41 .setLateLimits base 3 [pend [51, 0], pend [0, 51]] ∧
    AllAnswer 0x41 .setLateLimits base 0 [pend [50, 50], pend [0, 0]] ∧
    AllAnswer 0x76 .setBreakHush base 3 [pend [2]] ∧ AllAnswer 0x76 .setBreakHush base 0 [pend [0], pend [1]] :=
  ⟨allAnswer (by decide +kernel), allAnswer (by decide +kernel), allAnswer (by decide +kernel),
    allAnswer (by decide +kernel), allAnswer (by decide +kernel), allAnswer (by decide +kernel)⟩

/-- At part time 20,001 a master show time of 1, 0, 40,001 and 40,002 differs by −20,000, −20,001, 20,000 and 20,001. -/
theorem test_witness_Sync :
    [[0, 1], [0, 0], [0x9C, 0x41], [0x9C, 0x42]].map (fun m =>
      after (fun t => (t.cue.syncOffset, kindCount .clockSlip t)) (.sync (toAll ([0, 0, 0, 0] ++ m))) (atTime 20001 base)) =
      [some (-250, 0), some (-20001, 1), some (250, 0), some (20001, 1)] ∧
    presentFrame 0x14 (toAll [0, 0, 0, 0, 0, 1]) (atTime 20001 base) = some (20001, atTime 20001 base) :=
  ⟨by decide +kernel, presented (by decide +kernel)⟩

theorem test_witness_Nudge :
    AllAnswer 0x15 .nudge (playing []) 3 [pend [0xF5], pend [11]] ∧ AllAnswer 0x15 .nudge base 4 [pend [0xF6], pend [10]] ∧
    AllAnswer 0x15 .nudge underrun 0 [pend [0xF6], pend [10]] ∧
    OfferedToAll 0x15 (toAll [11]) (playing []) (playing []) ∧ exec (.nudge (toAll [11])) (playing []) = .next (playing []) ∧
    exec (.nudge (toAll [10])) base = .next base ∧
    after (fun t => t.cue.slots[0].anchor) (.nudge (toAll [10])) underrun = some (.pending 360000) ∧
    after (fun t => t.cue.slots[0].anchor) (.nudge (pend [10])) (playing [markAt 480]) = some (.set 480 1000000 450000) :=
  ⟨allAnswer (by decide +kernel), allAnswer (by decide +kernel), allAnswer (by decide +kernel),
    offeredToAll (by decide), rfl, rfl, by decide +kernel, by decide +kernel⟩

/-- A committed entry at a tick, due at a part time. -/
def committedAt (tick : Nat) (due : Time) : Committed :=
  { event := markAt tick
    note := { due := due, beatStart := tick / 240 * 240, barStart := tick / 960 * 960, before := CommitState.powerOn,
              outcome := .fired } }

/-- Slot A sounds with committed entries and none unplayed. -/
def played (entries : List Committed) : State :=
  updSlot 0 (fun x => { x with ring := { x.ring with retained := entries } }) (playing [])

/-- With nothing unplayed the nudge tick is that of the last entry written. -/
theorem test_witness_Nudge_lastWritten :
    (played [committedAt 240 0]).cue.slots[0].ring.lastTick = some 240 ∧
    after (fun t => t.cue.slots[0].anchor) (.nudge (pend [0])) (played [committedAt 240 0]) = some (.set 240 500000 500000) := by
  decide +kernel

/-! ### Cue arbiter -/

def withMask (mask : Nat) (s : State) : State := { s with arb.baseMask := mask }

/-- Slot B is loaded with a priority. -/
def loadB (priority : Nat) (s : State) : State := updSlot 1 (fun x => { x with state := .loaded, priority := priority }) s

theorem test_witness_Start_refused :
    AllAnswer 0x20 .start base 3 [pend [4]] ∧ AllAnswer 0x20 .start base 4 [pend [0], pend [3]] ∧
    AllAnswer 0x20 .start (loadB 7 (inSection .halted)) 4 [pend [1]] ∧
    AllAnswer 0x20 .start (loadB 7 (inSection .hushing)) 4 [pend [1]] ∧
    AllAnswer 0x20 .start (loadB 7 (inSection .service)) 4 [pend [1]] :=
  ⟨allAnswer (by decide +kernel), allAnswer (by decide +kernel), allAnswer (by decide +kernel),
    allAnswer (by decide +kernel), allAnswer (by decide +kernel)⟩

theorem test_witness_Start_free : RoleFree (loadB 3 base) ∧ Exceeds 1 2 (loadB 3 base) ∧ ¬ Exceeds 1 3 (loadB 3 base) ∧
    Exceeds 1 7 (loadB 7 base) ∧
    [(loadB 3 (withMask 2 base)), (loadB 3 (withMask 3 base)), (loadB 7 (withMask 7 base))].map
      (fun s => replyOn .servicePort (exec (.start (pend [1])) s)) = [some [0, 3], some [0, 2], some [0, 3]] := by
  unfold RoleFree Exceeds; decide +kernel

/-- Slot A is PAUSED, frozen at tick 0. -/
def paused : State :=
  updSlot 0 (fun x => { x with
    state := .paused, anchor := .pending 500000, pause := some { point := .entry, freezeTick := 0, resumeTick := some 0 } })
    { playing [markAt 0] with sect.state := .paused }

theorem test_witness_Start_occupied : HoldsRoleAlone 0 (loadB 3 (playing [])) ∧ HoldsRoleAlone 0 (loadB 4 paused) ∧
    ¬ Exceeds 1 (loadB 3 (playing [])).cue.slots[0].priority (loadB 3 (playing [])) ∧
    Exceeds 1 (loadB 4 paused).cue.slots[0].priority (loadB 4 paused) ∧ (loadB 4 paused).cue.slots[0].pause ≠ none ∧
    [(loadB 3 (playing [])), (loadB 4 (playing [])), (loadB 4 paused)].map (fun s =>
      after (fun t => (t.cue.slots[0].state, t.cue.slots[1].state, t.arb.stack.length)) (.start (pend [1])) s) =
      [some (.sounding, .waiting, 0), some (.suspended, .sounding, 1), some (.suspended, .sounding, 1)] := by
  unfold HoldsRoleAlone Exceeds; decide +kernel

theorem test_witness_PauseAndContinue :
    AllAnswer 0x21 .pause base 4 [pend []] ∧ AllAnswer 0x21 .pause (playing [markAt 0]) 0 [pend []] ∧
    AllAnswer 0x22 .continueCue base 4 [pend []] ∧ AllAnswer 0x22 .continueCue paused 0 [pend []] ∧
    (∀ j : SlotId, paused.cue.slots[j].state = .paused → j = 0) ∧
    (∀ j : SlotId, (playing []).cue.slots[j].state = .sounding → j = 0) :=
  ⟨allAnswer (by decide +kernel), allAnswer (by decide +kernel), allAnswer (by decide +kernel),
    allAnswer (by decide +kernel), by decide +kernel, by decide +kernel⟩

/-- Slot B waits with a priority. -/
def waitB (priority : Nat) (s : State) : State :=
  updSlot 1 (fun x => { x with state := .waiting, priority := priority, waitingOrder := some 1 })
    { s with arb.waiting := [{ slot := 1, sequence := 1 }] }

def recordC : ContextRecord :=
  { slot := 2, freeze := { point := .none, freezeTick := 0, resumeTick := none }, timing := CommitState.powerOn,
    transposition := 0, dynamics := 100, holds := #v[true, false, false, false], rotorTargets := #v[60, 0], savedMask := 2 }

/-- Slot C is SUSPENDED beneath the occupant. -/
def stackC (s : State) : State :=
  updSlot 2 (fun x => { x with state := .suspended, priority := 2 }) { s with arb.stack := [recordC] }

theorem test_witness_DropCue :
    AllAnswer 0x23 .dropCue base 3 [pend [4]] ∧ AllAnswer 0x23 .dropCue base 0 [pend [0], pend [3]] ∧
    [(loadB 1 base, 1), (waitB 1 (playing []), 1), (stackC (playing []), 2), (stackC (playing []), 0), (paused, 0),
      (waitB 3 (stackC paused), 0), (waitB 1 (playing []), 0)].map
      (fun p => after (fun t => (t.sect.state, t.cue.slots.toList.map Slot.state)) (.dropCue (pend [p.2])) p.1) =
      [some (.quiet, [.empty, .empty, .empty, .empty]), some (.playing, [.sounding, .empty, .empty, .empty]),
       some (.playing, [.sounding, .empty, .empty, .empty]), some (.playing, [.empty, .empty, .sounding, .empty]),
       some (.quiet, [.empty, .empty, .empty, .empty]), some (.playing, [.empty, .sounding, .suspended, .empty]),
       some (.playing, [.empty, .sounding, .empty, .empty])] :=
  ⟨allAnswer (by decide +kernel), allAnswer (by decide +kernel), by decide +kernel⟩

/-- One entry sounded at 10, one is due at 20, one is unplayed. -/
def ringSlot (unplayed : List Event) : Slot :=
  { Slot.powerOn with ring := { Ring.powerOn with retained := [committedAt 0 10, committedAt 300 20], unplayed := unplayed } }

theorem test_witness_Freeze :
    freezeOf 15 [] (ringSlot []) = { point := .entry, freezeTick := 300, resumeTick := some 300 } ∧
    freezeOf 15 [0] { ringSlot [] with rewindMode := .barMode } = { point := .entry, freezeTick := 0, resumeTick := some 0 } ∧
    freezeOf 20 [] { ringSlot [markAt 500] with rewindMode := .beatMode } =
      { point := .entry, freezeTick := 500, resumeTick := some 480 } ∧
    freezeOf 20 [] { ringSlot [] with rewindMode := .beatMode } =
      { point := .tail, freezeTick := 300, resumeTick := some 240 } ∧
    freezeOf 20 [] Slot.powerOn = { point := .none, freezeTick := 0, resumeTick := none } := by decide

/-- The entries of withdrawn firings: slot A's HOLD firings stand for its place 0, and slot B has none. -/
theorem test_witness_withdrawnEntries :
    actingPlaces 0 (planned 2 (playing [])) = [0, 0] ∧ actingPlaces 1 (planned 2 (playing [])) = [] := by
  decide +kernel

theorem test_witness_RewindAndRelease :
    (ringSlot []).rewind 301 = ringSlot [] ∧
    ((ringSlot []).rewind 300).ring.unplayed = [markAt 300] ∧ ((ringSlot []).rewind 0).ring.retained = [] ∧
    ((ringSlot [markAt 500]).releaseEntries 20).ring.retained = [] ∧
    ((ringSlot []).releaseEntries 20).ring.retained = [committedAt 300 20] ∧
    ((ringSlot []).releaseEntries 15).ring.release = 1 ∧ ((ringSlot []).releaseEntries 9).ring.release = 0 := by decide

theorem test_witness_MaskTransposeAndDynamics :
    AllAnswer 0x24 .setMask base 3 [pend [8]] ∧ AllAnswer 0x24 .setMask (playing []) 0 [pend [0], pend [7]] ∧
    [(waitB 1 base, 1), (waitB 1 base, 0)].map (fun p => after (fun t => t.sect.state) (.setMask (pend [p.2])) p.1) =
      [some .quiet, some .playing] ∧
    AllAnswer 0x25 .setTranspose (stackC (playing [])) 3 [pend [4, 0], pend [0, 0xE7], pend [0, 25]] ∧
    AllAnswer 0x25 .setTranspose (stackC (playing [])) 4 [pend [1, 0xE8]] ∧
    AllAnswer 0x25 .setTranspose (stackC (playing [])) 0 [pend [0, 24], pend [2, 0xE8]] ∧
    after (fun t => t.arb.stack.map ContextRecord.transposition) (.setTranspose (pend [2, 0xE8])) (stackC (playing [])) =
      some [-24] ∧
    AllAnswer 0x26 .setDynamics (stackC (playing [])) 3 [pend [4, 25], pend [0, 24], pend [0, 201]] ∧
    AllAnswer 0x26 .setDynamics (stackC (playing [])) 4 [pend [1, 25]] ∧
    AllAnswer 0x26 .setDynamics (stackC (playing [])) 0 [pend [0, 25], pend [2, 200]] :=
  ⟨allAnswer (by decide +kernel), allAnswer (by decide +kernel), by decide +kernel, allAnswer (by decide +kernel),
    allAnswer (by decide +kernel), allAnswer (by decide +kernel), by decide +kernel, allAnswer (by decide +kernel),
    allAnswer (by decide +kernel), allAnswer (by decide +kernel)⟩

/-! ### Reading -/

theorem test_witness_ReadCue :
    AllAnswer 0x12 .readCue (played [committedAt 240 0]) 3 [pend [4], pend [4, 0], pend [0, 1]] ∧
    AllAnswer 0x12 .readCue (played [committedAt 240 0]) 0 [pend [3], pend [0, 0]] ∧
    replyOn .servicePort (exec (.readCue (pend [0, 0])) (playing [markAt 300])) = some
      ([0, 0, 0, 0, 1, 0x2C, 6, 7, 0, 0] ++ List.replicate 22 0 ++ [0xFF, 0xFF]) ∧
    (played [committedAt 240 0]).cue.slots[0].ring.retained[0]? = some (committedAt 240 0) :=
  ⟨allAnswer (by decide +kernel), allAnswer (by decide +kernel), by decide +kernel, by decide +kernel⟩

/-- The ends of the ranges of 10 R180: unsigned and signed times, a signed byte, a flag byte. -/
theorem test_witness_EncodesNumbers :
    partTime48 0 = List.replicate 6 0 ∧ partTime48 (2 ^ 48 - 1) = List.replicate 6 0xFF ∧
    signed48 (-2 ^ 47) = 0x80 :: List.replicate 5 0 ∧ signed48 (2 ^ 47 - 1) = 0x7F :: List.replicate 5 0xFF ∧
    signed48 (-1) = List.replicate 6 0xFF ∧ signed48 1 = [0, 0, 0, 0, 0, 1] ∧ signedByte (-128) = 0x80 ∧
    signedByte 127 = 0x7F ∧ be32 0x01020304 = [1, 2, 3, 4] ∧ be24 0x010203 = [1, 2, 3] ∧
    flagByte [true, false, false, false, false, false, false, true] = 0x81 ∧
    numberOf [1, 2, 3] = 0x010203 := by decide +kernel

/-- READ CUE, summary: a set anchor and an entry, and a pending anchor and none. -/
theorem test_witness_ReadCue_summary :
    replyOn .servicePort (exec (.readCue (pend [0])) (playing [markAt 300])) = some
      ([0, 3, 3, 0, 0, 100, 32, 0, 100, 0, 1, 0, 1, 0, 0x0F] ++ List.replicate 10 0 ++ [7, 0xA1, 0x20, 7, 0xA1, 0x20] ++
        [0, 0, 0, 0, 4, 0, 0, 1, 0x2C, 0, 0, 1, 0x2C, 0, 0, 1, 0x2C]) ∧
    replyOn .servicePort (exec (.readCue (pend [3])) (playing [])) = some
      ([0, 0, 0, 0, 0, 100, 32, 0, 100] ++ List.replicate 16 0 ++ [7, 0xA1, 0x20, 7, 0xA1, 0x20, 0, 0, 0, 0, 4] ++
        List.replicate 12 0) := by decide +kernel

/-- READ STACK, summary: the role free; slot A SOUNDING, C in the stack and B waiting; slot A PAUSED. -/
theorem test_witness_ReadStack_summary :
    RoleFree base ∧ HoldsRoleAlone 0 (waitB 3 (stackC (playing []))) ∧ HoldsRoleAlone 0 paused ∧
    paused.cue.slots[0].pause.isSome = true ∧
    [base, waitB 3 (stackC (playing [])), paused].map (fun s => replyOn .servicePort (exec (.readStack (pend [])) s)) =
      [some ([0, 0, 0, 0xFF, 0xFF, 0xFF] ++ List.replicate 14 0),
       some ([0, 0, 3, 0, 3, 0xFF] ++ List.replicate 8 0 ++ [1, 1, 1, 3, 0, 0, 0, 1, 0, 0, 0, 0]),
       some ([0, 0, 3, 0, 4] ++ List.replicate 15 0)] := by
  unfold RoleFree HoldsRoleAlone; decide +kernel

theorem test_witness_ReadStackAndState :
    AllAnswer 0x27 .readStack (stackC (playing [])) 3 [pend [3]] ∧
    AllAnswer 0x27 .readStack (stackC (playing [])) 0 [pend [], pend [0], pend [2]] ∧
    replyOn .servicePort (exec (.readStack (pend [1])) (stackC (playing []))) = some [0, 1, 1] ∧
    replyOn .servicePort (exec (.readStack (pend [0])) (stackC (playing []))) = some
      [0, 1, 0, 2, 2, 0, 0, 0, 0, 0, 0, 0, 0, 7, 0xA1, 0x20, 0, 0, 0, 0, 4, 0, 100, 1, 60, 0, 2] ∧
    (replyOn .servicePort (exec (.readState (pend [])) base)).map List.length = some 31 ∧
    AllAnswer 0x70 .readState (inSection .service) 0 [addr [], pend []] :=
  ⟨allAnswer (by decide +kernel), allAnswer (by decide +kernel), by decide +kernel, by decide +kernel, by decide +kernel,
    allAnswer (by decide +kernel)⟩

/-- Window 0 maps pitches 60 and 61 to groups 0 and 1, and group 0 has the members 5 and 6, on rails 0 and 0. -/
def mapped (s : State) : State :=
  let t := { s with pitch := { s.pitch with
    windows := upd s.pitch.windows 0 fun _ => { enabled := true, firstPitch := 60, count := 2, firstGroup := 0 }
    groups := upd s.pitch.groups 0 fun g => { g with members := [5, 6] } } }
  updStrike 5 (fun x => { x with group := some 0 }) (updStrike 6 (fun x => { x with group := some 0 }) t)

theorem test_witness_ReadPitchMap :
    AllAnswer 0x31 .readWindow (mapped base) 3 [pend [2, 0], pend [0, 8], pend [1, 128]] ∧
    [[0, 0], [0, 7], [1, 60], [1, 61], [1, 62], [1, 127]].map (fun v => replyOn .servicePort (exec (.readWindow (pend v)) (mapped base))) =
      [some [0, 1, 60, 2, 0], some [0, 0, 0, 1, 0], some [0, 0, 0, 0, 2], some [0, 2, 0, 1, 0],
       some [0, 1, 0xFF, 0xFF, 0xFF], some [0, 1, 0xFF, 0xFF, 0xFF]] ∧
    AllAnswer 0x33 .readGroup (mapped base) 3 [pend [48]] ∧ AllAnswer 0x33 .readGroup (mapped base) 0 [pend [0], pend [47]] ∧
    AllAnswer 0x35 .readCurve base 3 [pend [8], pend [8, 1], pend [0, 0], pend [0, 128]] ∧
    AllAnswer 0x35 .readCurve base 0 [pend [7], pend [7, 1], pend [0, 127]] ∧
    AllAnswer 0x36 .setLanes (inSection .service) 0 [addr []] :=
  ⟨allAnswer (by decide +kernel), by decide +kernel, allAnswer (by decide +kernel), allAnswer (by decide +kernel),
    allAnswer (by decide +kernel), allAnswer (by decide +kernel), allAnswer (by decide +kernel)⟩

def pendingAs (p : PendingTable) (s : State) : State := { s with rail.pendingTable := p }

theorem test_witness_ReadFireListAndPhases :
    AllAnswer 0x40 .readFireList base 3 [pend [2, 0], pend [0, 2], pend [1, 64]] ∧
    AllAnswer 0x40 .readFireList base 0 [pend [0, 0], pend [0, 1], pend [1, 0], pend [1, 63]] ∧
    AllAnswer 0x52 .readPhases base 3 [pend [2, 0, 1], pend [0, 64, 1], pend [0, 0, 0], pend [0, 0, 33], pend [0, 63, 2]] ∧
    AllAnswer 0x52 .readPhases base 0 [pend [0, 0, 32], pend [0, 63, 1], pend [1, 0, 1]] ∧
    AllAnswer 0x52 .readPhases (pendingAs (.loading PhaseTable.powerOn) base) 0 [pend [1, 63, 1]] ∧
    AllAnswer 0x52 .readPhases (pendingAs (.committed PhaseTable.powerOn) base) 0 [pend [1, 63, 1]] :=
  ⟨allAnswer (by decide +kernel), allAnswer (by decide +kernel), allAnswer (by decide +kernel),
    allAnswer (by decide +kernel), allAnswer (by decide +kernel), allAnswer (by decide +kernel)⟩

/-- The phase index is that of the last phase begun, 63 at 15,750 µs; the last entries are 2 and 3, with no count. -/
theorem test_witness_ReadPhases_index :
    replyOn .servicePort (exec (.readPhases (pend [0, 62, 2])) { base with rail.lastPhaseStart := some 15750 }) =
      some [0, 0, 63, 2, 3] := by decide +kernel

/-- READ FIRE LIST, list, but for the free code of the firing's state (log 19); READ CHANNEL of a DRIVING channel. -/
theorem test_witness_ReadFireListAndChannel_bytes :
    (replyOn .servicePort (exec (.readFireList (pend [1, 2])) (planned 3 (playing [])))).map (fun l => l.eraseIdx 6) =
      some [0, 3, 1, 0, 2, 3, 0, 0, 0, 0, 0x89, 0x54, 0x40, 0, 0, 0, 1, 0, 0, 0] ∧
    replyOn .servicePort (exec (.readChannel (pend [5]))
      (updStrike 5 (fun x => { x with state := .driving ⟨{ width := 400, source := .slot 0, fireTime := 0 }, 0, 400⟩ }) base)) =
      some ([0, 0, 1, 20, 1, 1, 0xFF, 1, 0x90] ++ List.replicate 17 0 ++ [1, 0x90, 0, 0, 0xFF] ++ List.replicate 23 0) := by
  decide +kernel

theorem test_witness_ReadRailAndChannel :
    AllAnswer 0x54 .readRail base 3 [pend [4]] ∧ AllAnswer 0x54 .readRail base 0 [pend [0], pend [3]] ∧
    replyOn .servicePort (exec (.readRail (pend [3])) base) = some [0, 0x0F, 0xA0, 0, 100, 0, 0, 0x0F, 0xA0, 0, 0, 0, 0, 16] ∧
    AllAnswer 0x61 .readChannel base 3 [pend [102]] ∧
    AllAnswer 0x61 .readChannel base 0 [pend [0], pend [95], pend [96], pend [99], pend [100], pend [101]] :=
  ⟨allAnswer (by decide +kernel), allAnswer (by decide +kernel), by decide +kernel, allAnswer (by decide +kernel),
    allAnswer (by decide +kernel)⟩

/-- DRIVE_SHORT has occurred on channel 95. -/
def shorted : State := raise { kind := .driveShort, origin := .channel 95, detail := .drive 95 400 } (inSection .halted)

theorem test_witness_ReadFaultMonitor :
    AllAnswer 0x80 .readFaults shorted 0 [pend [], addr []] ∧ base.fault.capture = none ∧ shorted.fault.capture ≠ none ∧
    replyOn .servicePort (exec (.readCapture (pend [])) base) = some [0, 0] ∧
    (replyOn .servicePort (exec (.readCapture (pend [])) shorted)).map List.length = some 34 ∧
    AllAnswer 0x86 .readCounts shorted 3 [pend [2]] ∧ AllAnswer 0x86 .readCounts shorted 0 [pend [0], pend [1]] ∧
    after (kindCount .driveShort) (.readCounts (pend [1])) (inSection .halted) = some 0 ∧
    replyOn .servicePort (exec (.readAttention (pend [])) base) = some [0, 8, 0, 0, 0, 1] :=
  ⟨allAnswer (by decide +kernel), by decide +kernel, by decide +kernel, by decide +kernel, by decide +kernel,
    allAnswer (by decide +kernel), allAnswer (by decide +kernel), by decide +kernel, by decide +kernel⟩

/-- The detail bytes of every kind group but the links', whose spare body bytes are free (log 22). -/
theorem test_witness_ReadCapture_details :
    [Detail.strike (some ⟨1, 256, 60⟩) (some 47) none (some 65536), .strike none none none none, .drive 95 400,
      .rail 4001 4000, .clock (-1) 20000, .nothing].map Detail.data =
      [[0x0B, 1, 0, 0, 1, 0, 60, 47, 0xFF, 0, 1, 0, 0], [0, 0xFF, 0, 0, 0, 0, 0xFF, 0xFF, 0xFF, 0, 0, 0, 0],
       [95, 1, 0x90] ++ List.replicate 10 0, [0x0F, 0xA1, 0x0F, 0xA0] ++ List.replicate 9 0,
       [0xFF, 0xFF, 0xFF, 0xFF, 0xFF, 0xFF, 0, 0, 0, 0, 0x4E, 0x20, 0], List.replicate 13 0] ∧
    (Detail.link none (some 1) [1, 2]).data.take 6 = [2, 0xFF, 1, 2, 1, 2] ∧
    (Detail.link (some 0) none [1, 2, 3, 4, 5, 6]).data = [1, 0, 0xFF, 6, 1, 2, 3, 4, 5, 6, 0, 0, 0] := by decide +kernel

theorem test_witness_ExchangeWords :
    AllAnswer 0x90 .readExchange base 3 [pend [8, 1], pend [0, 0], pend [0, 9], pend [7, 2]] ∧
    AllAnswer 0x90 .readExchange base 0 [pend [7, 1], pend [0, 8]] ∧
    AllAnswer 0x91 .writeExchange base 3 [pend [8, 1, 0, 1], pend [7, 2, 0, 1, 0, 2], pend [0, 0], pend [0, 0, 0, 1]] ∧
    replyOn .servicePort (exec (.writeExchange (pend [7, 1, 0, 1])) base) = some [0, 0, 1] ∧
    replyOn .servicePort (exec (.writeExchange (pend [7, 1, 0, 1, 0, 0])) base) = some [0, 0, 1] ∧
    replyOn .servicePort (exec (.writeExchange (pend [0, 1, 0, 1, 0, 5])) base) = some [8, 0, 0] :=
  ⟨allAnswer (by decide +kernel), allAnswer (by decide +kernel), allAnswer (by decide +kernel), by decide +kernel,
    by decide +kernel, by decide +kernel⟩

/-! ### Pitch map -/

theorem test_witness_PitchTranslation :
    let p := (mapped base).pitch
    [-1, 0, 59, 60, 61, 62, 127, 128].map (translate p) =
      [.outOfRange, .noWindow, .noWindow, .mapped 0 0, .noMembers 0 1, .noWindow, .noWindow, .outOfRange] := by decide +kernel

/-- The default curve at both ends of each segment (03 Table 3.4.2). -/
theorem test_witness_CurveInterpolation :
    [1, 31, 32, 63, 64, 95, 96, 127].map (fun v => (widthAt Curve.powerOn v, flightAt Curve.powerOn v)) =
      [(400, 30000), (980, 20323), (1000, 20000), (1775, 14188), (1800, 14000), (2768, 10125), (2800, 10000), (4000, 8000)] := by
  decide +kernel

theorem test_witness_SetWindow :
    AllAnswer 0x30 .setWindow base 3 [pend [8, 1, 0, 1, 0], pend [0, 2, 0, 1, 0], pend [0, 1, 128, 1, 0], pend [0, 1, 0, 0, 0],
      pend [0, 1, 0, 129, 0], pend [0, 1, 0, 1, 48], pend [0, 1, 127, 2, 0], pend [0, 1, 0, 2, 47]] ∧
    AllAnswer 0x30 .setWindow (playing []) 4 [pend [0, 1, 0, 1, 0]] ∧
    replyOn .servicePort (exec (.setWindow (pend [7, 1, 61, 1, 0])) (mapped base)) = some [8, 0] ∧
    AllAnswer 0x30 .setWindow (mapped base) 0 [pend [7, 1, 127, 1, 47], pend [7, 0, 61, 1, 0], pend [0, 1, 61, 48, 0],
      pend [7, 1, 62, 48, 0], pend [7, 1, 12, 48, 0]] ∧
    Configurable base ∧ Configurable (inSection .service) ∧ Configurable (inSection .halted) ∧ ¬ Configurable (playing []) :=
  ⟨allAnswer (by decide +kernel), allAnswer (by decide +kernel), by decide +kernel, allAnswer (by decide +kernel),
    by unfold Configurable; decide, by unfold Configurable; decide, by unfold Configurable; decide, by unfold Configurable; decide⟩

theorem test_witness_SetGroup :
    AllAnswer 0x32 .setGroup base 3 [pend [48, 0, 0, 0, 0], pend [0, 8, 0, 0, 0], pend [0, 0, 2, 0, 0], pend [0, 0, 0, 21, 0],
      pend [0, 0, 0, 0, 5, 1, 2, 3, 4, 5], pend [0, 0, 0, 0, 1, 96], pend [0, 0, 0, 0, 2, 1, 1]] ∧
    AllAnswer 0x32 .setGroup (playing []) 4 [pend [0, 0, 0, 0, 0]] ∧
    replyOn .servicePort (exec (.setGroup (pend [47, 0, 0, 0, 2, 1, 5])) (mapped base)) = some [8, 5, 0] ∧
    AllAnswer 0x32 .setGroup (mapped base) 0 [pend [47, 7, 1, 20, 4, 0, 1, 2, 95], pend [0, 0, 0, 0, 0]] ∧
    after (fun t => (t.drive.strikes[5].group, t.drive.strikes[6].group, t.drive.strikes[7].group))
      (.setGroup (pend [0, 0, 0, 0, 2, 5, 7])) (mapped base) = some (some 0, none, some 0) :=
  ⟨allAnswer (by decide +kernel), allAnswer (by decide +kernel), by decide +kernel, allAnswer (by decide +kernel), by decide +kernel⟩

/-- SET CURVE's fields with five equal points. -/
def curveFields (curve : Byte) (point : List Byte) : Frame := pend (curve :: (List.replicate 5 point).flatten)

theorem test_witness_SetCurveAndLanes :
    AllAnswer 0x34 .setCurve base 3 [curveFields 8 [0, 200, 0x07, 0xD0], curveFields 0 [0, 199, 0x07, 0xD0],
      curveFields 0 [0x1F, 0x41, 0x07, 0xD0], curveFields 0 [0, 200, 0x07, 0xCF], curveFields 0 [0, 200, 0x9C, 0x41]] ∧
    AllAnswer 0x34 .setCurve (playing []) 4 [curveFields 0 [0, 200, 0x07, 0xD0]] ∧
    AllAnswer 0x34 .setCurve base 0 [curveFields 7 [0, 200, 0x07, 0xD0], curveFields 0 [0x1F, 0x40, 0x9C, 0x40]] ∧
    AllAnswer 0x36 .setLanes base 3 [pend [1, 0, 0, 0, 0, 0, 0, 0], pend [0, 0, 0, 0, 0, 0, 0, 2]] ∧
    AllAnswer 0x36 .setLanes (playing []) 0 [pend [0, 1, 1, 1, 1, 1, 1, 1]] :=
  ⟨allAnswer (by decide +kernel), allAnswer (by decide +kernel), allAnswer (by decide +kernel), allAnswer (by decide +kernel),
    allAnswer (by decide +kernel)⟩

/-! ### Commits and the fire list -/

/-- The part time at which an entry of a tick is committed: its due time less the horizon. -/
def commitAt (tick : Nat) : Nat := tick * 500000 / 240 - 30000

def dataAt (tick : Nat) (data : EventData) : Event := { tick := tick, data := data }

theorem test_witness_Commit_timing :
    [dataAt 480 (.tempo 200000), dataAt 480 (.meter 3)].map (fun e =>
      [commitAt 480 - 1, commitAt 480].map fun now =>
        after (fun t => (t.cue.slots[0].anchor, t.cue.slots[0].timing.barOrigin)) .commit (atTime now (playing [e]))) =
      [[some (.set 0 0 500000, 0), some (.set 480 1000000 200000, 0)],
       [some (.set 0 0 500000, 0), some (.set 0 0 500000, 480)]] := by decide +kernel

/-- No slot SOUNDING, nothing unplayed, a pending anchor: nothing is committed, however late it is. -/
theorem test_witness_Commit_nothing :
    [base, playing [], updSlot 0 (fun x => { x with anchor := .pending 500000 }) (playing [markAt 480])].map
      (fun s => after (fun t => (t.cue.slots[0].ring.unplayed.length, t.sched.fireList.length)) .commit (atTime 5000000 s)) =
      [some (0, 0), some (0, 0), some (1, 0)] := by decide +kernel

/-- A HOLD that stands in front of a placed END and whose fire time has come too acts before the END withdraws it; one
of a later fire time is withdrawn unacted (04 R74, R78, R82). -/
theorem test_commit_listOrder :
    [1000000, 1000001].map (fun (time : Nat) => after (fun t => (t.drive.holds[0].on, t.sched.fireList, t.cue.slots[0].state)) .commit
      { atTime 1000000 (playing [endAt 480]) with sched.fireList := [holdFiring 1 (time : Int)] }) =
      [some (true, [], .empty), some (false, [], .empty)] := by decide +kernel

theorem test_witness_Commit_acting :
    [.hold 3 true, .rotor 1 120, .mark 255, .ending].map (fun d =>
      after (fun t => t.sched.fireList.map fun f => (f.fireTime, f.kind.code)) .commit (atTime (commitAt 480) (playing [dataAt 480 d]))) =
      [some [(1000000, 3)], some [(1000000, 4)], some [(1000000, 5)], some [(1000000, 6)]] ∧
    after (fun t => (t.drive.holds[3].on, t.sched.fireList)) .commit (atTime 1000000 (playing [dataAt 480 (.hold 3 true)])) =
      some (true, []) ∧
    after (fun t => (t.sect.state, t.cue.slots[0].state)) .commit (atTime 1000000 (playing [endAt 480])) = some (.quiet, .empty) ∧
    after (fun t => t.sched.fireList.length) .commit (atTime (commitAt 480) (planned 63 (playing [markAt 480]))) = some 64 ∧
    after (fun t => t.cue.slots[0].ring.unplayed) .commit (atTime (commitAt 480) (planned 64 (playing [markAt 480]))) =
      some [markAt 480] := by decide +kernel

/-- Slot A sounds with a note of pitch 60 and velocity 127, class 0, at tick 480; its fire time is 992,000. -/
def noteAt (pitch : Nat) : Event := dataAt 480 (.note pitch 127 0)

def onNote (pitch now : Nat) : State := atTime now (mapped (playing [noteAt pitch]))

theorem test_witness_CommitOfNote_unmapped :
    [commitAt 480 - 1, commitAt 480].map (fun now => after (kindCount .pitchUnmapped) .commit (onNote 59 now)) = [some 0, some 1] ∧
    translate (mapped (playing [])).pitch 59 = .noWindow := by decide +kernel

/-- The commit time is 962,000, and the late limit is passed at 996,001. -/
theorem test_witness_CommitOfNote_mapped :
    [961999, 962000, 992000, 996000, 996001].map (fun now =>
      after (fun t => (t.cue.slots[0].ring.retained.map fun c => c.note.outcome, t.sched.fireList.map Firing.state)) .commit (onNote 60 now)) =
      [some ([], []), some ([.fired], [.waiting]), some ([.fired], [.railWait 996000]), some ([.fired], [.railWait 996000]),
       some ([.skippedLate], [])] ∧
    after (fun t => t.sched.fireList.length) .commit (planned 64 (onNote 60 962000)) = some 64 := by decide +kernel

/-- Both members are fenced. -/
theorem test_witness_CommitOfNote_busy :
    let s := updStrike 5 (fun x => { x with fenced := true }) (updStrike 6 (fun x => { x with fenced := true }) (onNote 60 962000))
    after (fun t => (t.cue.slots[0].ring.retained.map fun c => c.note.outcome, kindCount .strikeBusy t)) .commit s =
      some ([.skippedBusy], 1) ∧
    chooseMember s.pitch.groups[0] 992000 (candidates s s.pitch.groups[0]) = none := by decide +kernel

theorem test_witness_MemberChoice :
    let g : Group := { members := [5, 6], curve := 0, policy := .delay, delayLimitMs := 5 }
    chooseMember g 100 [(5, 101), (6, 100)] = some (6, 100) ∧ chooseMember g 100 [(5, 100), (6, 100)] = some (5, 100) ∧
    chooseMember g 100 [(5, 5100)] = some (5, 5100) ∧ chooseMember g 100 [(5, 5101)] = none ∧
    chooseMember { g with policy := .drop } 100 [(5, 101)] = none := by decide +kernel

def drivenTo (stop : Time) : DrivenPulse :=
  { pulse := { width := 400, source := .slot 0, fireTime := 0 }, beginTime := stop - 400, endTime := stop }

def driving (c : ChannelId) (stop : Time) (s : State) : State := updStrike c (fun x => { x with state := .driving (drivenTo stop) }) s

def shotOn (c : ChannelId) : Shot := { channel := c, rail := 0, lane := 0, velocity := 100, width := 1000, charge := 10 }

/-- A STRIKE firing of slot A for channel 5. -/
def strikeFiring (state : FiringState) : Firing :=
  { number := 1, fireTime := 50000, state := state, kind := .strike refA 60 0 (shotOn 5) }

def withFirings (fs : List Firing) (s : State) : State := { s with sched.fireList := fs }

theorem test_witness_MemberChoice_free :
    projectedFree base 5 = 0 ∧ projectedFree (driving 5 400 base) 5 = 20400 ∧
    projectedFree (updStrike 5 (fun x => { x with nextPulse := some (drivenTo 0).pulse }) (driving 5 400 base)) 5 = 40800 ∧
    projectedFree (withFirings [strikeFiring .waiting] (driving 5 400 base)) 5 = 71000 := by decide +kernel

theorem test_witness_Arrival :
    [49999, 50000].map (fun now => after (fun t => t.sched.fireList.map Firing.state) .fireTimeArrival
      (atTime now (withFirings [strikeFiring .waiting] base))) = [some [.waiting], some [.railWait 54000]] := by decide +kernel

theorem test_witness_Expiry :
    [53999, 54000].map (fun now => after (fun t => (t.sched.fireList.length, kindCount .strikeLate t)) (.lateExpiry 1)
      (atTime now (withFirings [strikeFiring (.railWait 54000)] base))) = [some (1, 0), some (0, 1)] ∧
    after (fun t => (t.sched.fireList.length, kindCount .strikeLate t)) (.lateExpiry 1)
      (atTime 54000 (withFirings [{ strikeFiring (.railWait 54000) with kind := .test (shotOn 5) }] base)) = some (0, 1) := by
  decide +kernel

/-! ### Rails -/

theorem test_witness_PhaseTables_load :
    AllAnswer 0x50 .loadPhases base 3 [pend [64, 1, 0], pend [0, 0], pend (0 :: 33 :: List.replicate 33 0), pend [63, 2, 0, 0],
      pend [0, 1, 5]] ∧
    AllAnswer 0x50 .loadPhases (pendingAs (.committed PhaseTable.powerOn) base) 4 [pend [0, 1, 4]] ∧
    AllAnswer 0x50 .loadPhases base 0 [pend [63, 1, 4], pend (32 :: 32 :: List.replicate 32 3)] ∧
    AllAnswer 0x50 .loadPhases (pendingAs (.loading PhaseTable.powerOn) base) 0 [pend [63, 1, 4]] :=
  ⟨allAnswer (by decide +kernel), allAnswer (by decide +kernel), allAnswer (by decide +kernel), allAnswer (by decide +kernel)⟩

/-- A table in which no phase names a rail. -/
def idleTable : PhaseTable := mapAll (fun _ => none) PhaseTable.powerOn

theorem test_witness_PhaseTables_commit :
    AllAnswer 0x51 .commitPhases base 4 [pend []] ∧
    AllAnswer 0x51 .commitPhases (pendingAs (.committed PhaseTable.powerOn) base) 4 [pend []] ∧
    replyOn .servicePort (exec (.commitPhases (pend [])) (pendingAs (.loading idleTable) (mapped base))) = some [8, 0, 5] ∧
    AllAnswer 0x51 .commitPhases (pendingAs (.loading idleTable) base) 0 [pend []] ∧
    AllAnswer 0x51 .commitPhases (pendingAs (.loading PhaseTable.powerOn) (mapped base)) 0 [pend []] :=
  ⟨allAnswer (by decide +kernel), allAnswer (by decide +kernel), by decide +kernel, allAnswer (by decide +kernel),
    allAnswer (by decide +kernel)⟩

def charged (n : Nat) (s : State) : State := updRail 0 (fun x => { x with accumulator := n }) s

theorem test_witness_RailSettings :
    AllAnswer 0x53 .setRail base 3 [pend [4, 0, 0, 0, 0], pend [0, 0, 0, 0x10, 0]] ∧
    AllAnswer 0x53 .setRail base 0 [pend [3, 0xFF, 0xFF, 0x0F, 0xFF]] ∧
    ([[0, 100, 0, 100], [0, 99, 0, 100]] : List (List Byte)).map (fun v => after (fun t => (t.rail.rails[0].latch, kindCount .railOverload t))
      (.setRail (pend (0 :: v))) (charged 100 base)) = [some (false, 0), some (true, 1)] ∧
    AllAnswer 0x55 .clearRailLatch base 3 [pend [4]] ∧ AllAnswer 0x55 .clearRailLatch (charged 4001 base) 4 [pend [0]] ∧
    AllAnswer 0x55 .clearRailLatch (charged 4000 base) 0 [pend [0], pend [3]] :=
  ⟨allAnswer (by decide +kernel), allAnswer (by decide +kernel), by decide +kernel, allAnswer (by decide +kernel),
    allAnswer (by decide +kernel), allAnswer (by decide +kernel)⟩

def waitingStrike : Firing := strikeFiring (.railWait 54000)

theorem test_witness_PhaseStart :
    [249, 250, 16000].map (fun now => after (fun t => t.rail.lastPhaseStart) (.phaseStart 0) (atTime now base)) =
      [some none, some (some 250), some (some 16000)] ∧
    after (fun t => (t.rail.pendingTable, t.rail.table[0], t.fault.flags)) (.phaseStart 0)
      (atTime 16000 (pendingAs (.committed idleTable) base)) = some (.empty, none, 0x0A00) ∧
    after (fun t => t.rail.pendingTable) (.phaseStart 0) (atTime 250 (pendingAs (.committed idleTable) base)) =
      some (.committed idleTable) ∧
    after (fun t => (t.drive.strikes[5].gate, t.sched.fireList.length, t.rail.rails[0].accumulator)) (.phaseStart 0)
      (atTime 51000 (withFirings [waitingStrike] base)) = some (true, 0, 10) ∧
    after (fun t => (t.drive.strikes[5].gate, kindCount .driveOpen t)) (.phaseStart (1 <<< 5))
      (atTime 51000 (withFirings [waitingStrike] base)) = some (true, 1) := by decide +kernel

theorem test_witness_Admission :
    let s := withFirings [waitingStrike] base
    let walk (n : Nat) (t : State) := (walkGrants 0 n [waitingStrike] t).sched.fireList.length
    walk 1 s = 0 ∧ walk 0 s = 1 ∧ walk 1 (charged 3990 s) = 0 ∧ walk 1 (charged 3991 s) = 1 ∧
    walk 1 (driving 5 400 s) = 1 ∧ walk 1 (updStrike 5 (fun x => { x with fenced := true }) s) = 1 ∧
    walk 1 (updStrike 5 (fun x => { x with state := .recover }) s) = 0 ∧
    walk 1 (updStrike 5 (fun x => { x with state := .recover, nextPulse := some (drivenTo 0).pulse }) s) = 1 ∧
    walk 1 (updRail 0 (fun x => { x with latch := true, accumulator := 1991 }) s) = 1 := by decide +kernel

/-! ### Drive unit -/

/-- Channel 5 recovers until a ready time, from a pulse that ended at 0. -/
def recovering (ready : Time) (next : Option Pulse) (s : State) : State :=
  updStrike 5 (fun x => { x with state := .recover, readyTime := ready, lastPulseEnd := some 0, nextPulse := next }) s

def channelState (c : ChannelId) (t : State) : Byte := t.drive.strikes[c].state.code

theorem test_witness_SetChannel :
    AllAnswer 0x60 (.setChannel · false) base 3 [pend [96, 0, 1, 2], pend [0, 4, 1, 2], pend [0, 0, 0, 2], pend [0, 0, 9, 2],
      pend [0, 0, 1, 1], pend [0, 0, 1, 61]] ∧
    AllAnswer 0x60 (.setChannel · false) (playing []) 4 [pend [0, 0, 1, 2]] ∧
    AllAnswer 0x60 (.setChannel · false) base 0 [pend [95, 3, 8, 60], pend [0, 0, 1, 2]] ∧
    [driving 5 9000 base, atTime 9999 (recovering 20000 none base), atTime 10000 (recovering 20000 none base),
      atTime 10000 (recovering 20000 (some (drivenTo 0).pulse) base)].map
      (fun s => after (fun t => (channelState 5 t, t.drive.strikes[5].readyTime)) (.setChannel (pend [5, 0, 1, 10]) false) s) =
      [some (1, 0), some (2, 10000), some (0, 10000), some (1, 10000)] :=
  ⟨allAnswer (by decide +kernel), allAnswer (by decide +kernel), allAnswer (by decide +kernel), by decide +kernel⟩

theorem test_witness_FenceAndShort :
    AllAnswer 0x62 .fence (inSection .service) 3 [addr [96]] ∧ AllAnswer 0x62 .fence (inSection .service) 0 [addr [0], addr [95]] ∧
    AllAnswer 0x63 .unfence base 3 [pend [96]] ∧ AllAnswer 0x63 .unfence base 0 [pend [95]] ∧
    after (fun t => (channelState 5 t, t.drive.strikes[5].readyTime, t.drive.strikes[5].fenced)) (.fence (pend [5]))
      (atTime 100 (driving 5 400 base)) = some (2, 20100, true) ∧
    after (fun t => (channelState 5 t, kindCount .driveShort t, t.sect.state)) (.shortReport 5) (atTime 100 (driving 5 400 base)) =
      some (2, 1, .halted) ∧
    after (fun t => (channelState 5 t, t.drive.strikes[5].lastSense)) (.shortReport 5) base = some (0, .shorted) :=
  ⟨allAnswer (by decide +kernel), allAnswer (by decide +kernel), allAnswer (by decide +kernel), allAnswer (by decide +kernel),
    by decide +kernel, by decide +kernel, by decide +kernel⟩

theorem test_witness_PulseEvents :
    [399, 400].map (fun now => after (channelState 5) (.pulseEnd 5) (atTime now (driving 5 400 base))) = [some 1, some 2] ∧
    [19999, 20000].map (fun now => after (channelState 5) (.recoveryEnd 5 false) (atTime now (recovering 20000 none base))) =
      [some 2, some 0] ∧
    after (fun t => (channelState 5 t, t.drive.strikes[5].lastSense)) (.recoveryEnd 5 true)
      (atTime 20000 (recovering 20000 (some (drivenTo 0).pulse) base)) = some (1, .opened) ∧
    exec (.recoveryEnd 5 false) base = .next base :=
  ⟨by decide +kernel, by decide +kernel, by decide +kernel, rfl⟩

theorem test_witness_TestFire :
    AllAnswer 0x66 .testFire (inSection .service) 3 [pend [96, 1, 0], pend [0, 0, 0], pend [0, 128, 0], pend [0, 1, 8]] ∧
    AllAnswer 0x66 .testFire base 4 [pend [0, 1, 0]] ∧ AllAnswer 0x66 .testFire (planned 64 (inSection .service)) 6 [pend [0, 1, 0]] ∧
    AllAnswer 0x66 .testFire (planned 63 (inSection .service)) 0 [pend [95, 127, 7]] ∧
    after (fun t => t.sched.fireList.map Firing.state) (.testFire (pend [0, 1, 0])) (inSection .service) = some [.railWait 4000] ∧
    replyOn .servicePort (exec (.testFire (pend [0, 127, 0])) (inSection .service)) = some [0, 0, 0, 0, 1, 0x0F, 0xA0, 0, 40] :=
  ⟨allAnswer (by decide +kernel), allAnswer (by decide +kernel), allAnswer (by decide +kernel), allAnswer (by decide +kernel),
    by decide +kernel, by decide +kernel⟩

theorem test_witness_HoldChannels :
    AllAnswer 0x64 .setHoldChannel base 3 [pend [4, 0, 0, 0], pend [0, 4, 0, 0], pend [0, 0, 4, 0]] ∧
    AllAnswer 0x64 .setHoldChannel (playing []) 4 [pend [0, 0, 0, 0]] ∧
    AllAnswer 0x64 .setHoldChannel base 0 [pend [3, 3, 3, 0xFF], pend [0, 0, 0, 0]] ∧
    AllAnswer 0x67 .testHold (inSection .service) 3 [pend [4, 0], pend [0, 2]] ∧ AllAnswer 0x67 .testHold base 4 [pend [3, 1]] ∧
    after (fun t => t.drive.holds[3].on) (.testHold (pend [3, 1])) (inSection .service) = some true :=
  ⟨allAnswer (by decide +kernel), allAnswer (by decide +kernel), allAnswer (by decide +kernel), allAnswer (by decide +kernel),
    allAnswer (by decide +kernel), by decide +kernel⟩

theorem test_witness_RotorChannels :
    AllAnswer 0x65 .setRotorChannel base 3 [pend [2, 0, 0, 0, 1], pend [0, 4, 0, 0, 1], pend [0, 0, 4, 0, 1], pend [0, 0, 0, 0, 0],
      pend [0, 0, 0, 0, 41]] ∧
    AllAnswer 0x65 .setRotorChannel (playing []) 4 [pend [0, 0, 0, 0, 1]] ∧
    AllAnswer 0x65 .setRotorChannel base 0 [pend [1, 3, 3, 0xFF, 40], pend [0, 0, 0, 0, 1]] ∧
    AllAnswer 0x68 .testRotor (inSection .service) 3 [pend [2, 0], pend [0, 121]] ∧ AllAnswer 0x68 .testRotor base 4 [pend [1, 120]] ∧
    after (fun t => (t.drive.rotors[1].target, t.drive.rotors[1].timer)) (.testRotor (pend [1, 120])) (inSection .service) =
      some (120, some 100000) :=
  ⟨allAnswer (by decide +kernel), allAnswer (by decide +kernel), allAnswer (by decide +kernel), allAnswer (by decide +kernel),
    allAnswer (by decide +kernel), by decide +kernel⟩

/-- Rotor M0 turns at a speed toward a target, its timer due at 100 ms. -/
def turning (current target : Nat) (hushRamp : Bool) (s : State) : State :=
  updRotor 0 (fun x => { x with current := current, target := target, hushRamp := hushRamp, timer := some 100000 }) s

theorem test_witness_RampTimer :
    [99999, 100000].map (fun now => after (fun t => (t.drive.rotors[0].current, t.drive.rotors[0].timer)) (.rampTimerExpiry 0)
      (atTime now (turning 5 60 false base))) = [some (5, some 100000), some (15, some 200000)] ∧
    after (fun t => (t.drive.rotors[0].current, t.sect.state)) (.rampTimerExpiry 0) (atTime 100000 (turning 41 0 true (inSection .hushing))) =
      some (1, .hushing) ∧
    after (fun t => (t.drive.rotors[0].current, t.sect.state)) (.rampTimerExpiry 0) (atTime 100000 (turning 40 0 true (inSection .hushing))) =
      some (0, .quiet) ∧
    exec (.rampTimerExpiry 1) base = .next base :=
  ⟨by decide +kernel, by decide +kernel, by decide +kernel, rfl⟩

/-! ### Section control -/

theorem test_witness_HushRequests :
    [playing [], turning 60 60 false (playing []), inSection .hushing, inSection .service].map (fun s =>
      after (fun t => t.sect.state) (.hush (pend [])) s) = [some .quiet, some .hushing, some .hushing, some .service] ∧
    OfferedToAll 0x71 (toAll []) (playing []) (playing []) ∧
    after (fun t => (t.sect.state, t.showUnit.shifter)) (.hush (toAll [])) (playing []) = some (.quiet, none) ∧
    AllAnswer 0x72 .sectionReset (inSection .hushing) 4 [addr []] ∧ AllAnswer 0x72 .sectionReset (inSection .halted) 4 [addr []] ∧
    AllAnswer 0x72 .sectionReset (playing []) 0 [addr []] ∧
    after (fun t => t.fault.flags) (.sectionReset (pend [])) { base with fault.flags := 0xFFFF } = some 0xF087 :=
  ⟨by decide +kernel, offeredToAll (by decide), by decide +kernel, allAnswer (by decide +kernel), allAnswer (by decide +kernel),
    allAnswer (by decide +kernel), by decide +kernel⟩

theorem test_witness_Take :
    AllAnswer 0x73 .take base 3 [pend [2]] ∧
    [base, inSection .halted, inSection .service, playing [], paused, inSection .hushing].map (fun s =>
      [0, 1].map fun v => replyOn .servicePort (exec (.take (pend [v])) s)) =
      [[some [0, 4], some [0, 4]], [some [0, 4], some [0, 4]], [some [0, 4], some [0, 4]], [some [4], some [0, 3]],
       [some [4], some [0, 3]], [some [4], some [0, 3]]] ∧
    after (fun t => (t.sect.state, t.sect.takeover)) (.take (pend [1])) (playing []) = some (.service, .held) ∧
    after (fun t => (t.sect.state, t.sect.takeover)) (.take (pend [1])) (turning 60 60 false (playing [])) = some (.hushing, .claiming) :=
  ⟨allAnswer (by decide +kernel), by decide +kernel, by decide +kernel, by decide +kernel⟩

/-- Halt-pending stands in a state, with the status of DRIVE_SHORT set. -/
def halting (st : SectionState) : State := { shorted with fault.fatalDue := false, sect := { base.sect with state := st, haltPending := true } }

theorem test_witness_ReleaseAndClearHalt :
    AllAnswer 0x74 .release base 4 [pend []] ∧
    [halting .service, inSection .service, waitB 1 (inSection .service)].map (fun s =>
      (replyOn .servicePort (exec (.release (pend [])) s), after (fun t => t.sect.state) (.release (pend [])) s)) =
      [(some [0, 5], some .halted), (some [0, 0], some .quiet), (some [0, 0], some .playing)] ∧
    AllAnswer 0x75 .clearHalt base 4 [addr []] ∧
    replyOn .showLink (exec (.clearHalt (addr [])) (halting .halted)) = some [8, 10] ∧
    AllAnswer 0x75 .clearHalt (inSection .halted) 0 [addr []] ∧
    (haltingKind (halting .halted).fault) = some 10 :=
  ⟨allAnswer (by decide +kernel), by decide +kernel, allAnswer (by decide +kernel), by decide +kernel, allAnswer (by decide +kernel),
    by decide +kernel⟩

/-- The pendant holds the section in a state, and its timer is due at 2 s. -/
def held (st : SectionState) : State :=
  { base with sect := { base.sect with state := st, takeover := .held, hushTarget := .service, silenceTimer := some 2000000 } }

theorem test_witness_PendantSilenceExpiry :
    [1999999, 2000000].map (fun now => after (fun t => (t.sect.state, t.sect.takeover, kindCount .pendantLost t)) .pendantSilenceExpiry
      (atTime now (held .service))) = [some (.service, .held, 0), some (.quiet, .none, 1)] ∧
    after (fun t => (t.sect.state, t.sect.hushTarget, t.sect.silenceTimer)) .pendantSilenceExpiry
      (atTime 2000000 (turning 60 0 true (held .hushing))) = some (.hushing, .quiet, none) ∧
    exec .pendantSilenceExpiry base = .next base :=
  ⟨by decide +kernel, by decide +kernel, rfl⟩

/-! ### Fault monitor -/

theorem test_witness_FaultKinds :
    AllAnswer 0x81 .clearFaults base 3 [pend [0x20, 0], pend [0x80, 0]] ∧
    replyOn .servicePort (exec (.clearFaults (pend [0, 0])) (halting .halted)) = some [0, 4, 0] ∧
    replyOn .servicePort (exec (.clearFaults (pend [0x1F, 0xFF])) (halting .halted)) = some [0, 0, 0] ∧
    AllAnswer 0x82 .setFaultMask base 3 [pend [0x20, 0, 0], pend [0, 0, 2]] ∧
    replyOn .servicePort (exec (.setFaultMask (pend [0x1F, 0xFF, 1])) base) = some [0, 0x1F, 0xFF] ∧
    AllAnswer 0x83 .setSeverity base 3 [pend [13, 0], pend [0, 3], pend [10, 2]] ∧
    AllAnswer 0x83 .setSeverity base 0 [pend [12, 2], pend [0, 0]] ∧ AllAnswer 0x85 .clearCapture shorted 0 [pend []] :=
  ⟨allAnswer (by decide +kernel), by decide +kernel, by decide +kernel, allAnswer (by decide +kernel), by decide +kernel,
    allAnswer (by decide +kernel), allAnswer (by decide +kernel), allAnswer (by decide +kernel)⟩

theorem test_witness_AttentionRequests :
    replyOn .showLink (exec (.clearAttention (addr [0xFF, 0xFF])) (inSection .service)) = some [0, 0, 0] ∧
    replyOn .showLink (exec (.maskAttention (addr [8, 0])) (inSection .service)) = some [0, 8, 0, 0] ∧
    replyOn .showLink (exec (.unmaskAttention (addr [8, 0])) (inSection .service)) = some [0, 0, 0, 1] ∧
    Offered 0x88 (addr [0xFF, 0xFF]) (inSection .service) (inSection .service) ∧
    AllAnswer 0x8B .call base 3 [pend [4]] ∧
    after (fun t => t.fault.flags) (.call (pend [3])) base = some 0x8800 ∧ after (fun t => t.fault.flags) (.call (pend [0])) base = some 0x1800 :=
  ⟨by decide +kernel, by decide +kernel, by decide +kernel, offered (by decide), allAnswer (by decide +kernel), by decide +kernel,
    by decide +kernel⟩

/-! ### States that keep the laws, away from reset -/

/-- Rail 0 is over its limit, near and latched, and a step is taken. -/
theorem test_witness_RailFlagsKept :
    let s := { updRail 0 (fun x => { x with accumulator := 4001, near := true, latch := true }) base with pending := [.phaseStart 0] }
    OverloadLatched s ∧ NearFlagTrue s ∧ (nextOf (step s)).isSome = true := by
  unfold OverloadLatched NearFlagTrue; decide +kernel

theorem test_witness_FencesKept :
    let s := { updStrike 7 (fun x => { x with fenced := true }) (driving 5 400 base) with pending := [.fence (pend [5])] }
    FencedSilent s ∧ (nextOf (step s)).isSome = true := by unfold FencedSilent; decide +kernel

theorem test_witness_FireListKept :
    let s := { planned 64 (playing []) with pending := [.dropCue (pend [0])] }
    FireListInOrder s ∧ (nextOf (step s)).isSome = true := by unfold FireListInOrder InFireOrder; decide +kernel

theorem test_witness_RingsKept :
    let s := { loaded [markAt 3, markAt 3] with pending := [.events (pend (0 :: 1 :: mark8 3))] }
    RingsInOrder s ∧ (nextOf (step s)).isSome = true := by unfold RingsInOrder InTickOrder; decide +kernel

theorem test_witness_HushKept :
    let s := { turning 60 0 true (inSection .hushing) with pending := [.testHold (pend [0, 1])] }
    HushingSilent s ∧ s.sect.state = .hushing ∧ (nextOf (step s)).isSome = true := by unfold HushingSilent; decide +kernel

theorem test_witness_PitchMapKept :
    let s := { mapped base with pending := [.setGroup (pend [0, 0, 0, 0, 1, 5])] }
    WindowsValid s ∧ WindowsApart s ∧ MembershipAgrees s ∧ (nextOf (step s)).isSome = true := by
  unfold WindowsValid WindowsApart MembershipAgrees; decide +kernel

theorem test_witness_RolesKept :
    let s := { waitB 1 (stackC (planned 3 (playing []))) with pending := [.dropCue (pend [0])] }
    RoleLaw s ∧ HaltPendingPlaced s ∧ StackNamesSuspended s ∧ WaitingSetNamesWaiting s ∧
    (nextOf (step s)).isSome = true := by
  unfold RoleLaw OneRole SectionAgrees FiringsOfSounding TestsInService HaltPendingPlaced StackNamesSuspended
    WaitingSetNamesWaiting
  decide +kernel

/-- A TEST firing in SERVICE, and RELEASE, which removes it. -/
theorem test_witness_RolesKept_service :
    let s := { withFirings [{ strikeFiring .waiting with kind := .test (shotOn 5) }] (inSection .service) with
      pending := [.release (pend [])] }
    RoleLaw s ∧ HaltPendingPlaced s ∧ StackNamesSuspended s ∧ WaitingSetNamesWaiting s ∧
    (nextOf (step s)).map (fun t => (t.sched.fireList, t.sect.state)) = some ([], .quiet) := by
  unfold RoleLaw OneRole SectionAgrees FiringsOfSounding TestsInService HaltPendingPlaced StackNamesSuspended
    WaitingSetNamesWaiting
  decide +kernel

theorem test_witness_SmallLawsKept :
    let s := { withUnit .showLink (fun u => { u with buffers := [stored, stored] }) with pending := [.shortReport 5] }
    FatalDelivered s ∧ ShortIsFatal s ∧ ClassZeroInLaneZero s ∧ BuffersBounded s ∧ (nextOf (step s)).isSome = true := by
  unfold FatalDelivered ShortIsFatal ClassZeroInLaneZero BuffersBounded; decide +kernel

end Sys2Proof.Tests
end

namespace Sys2Proof.Machine

open Safety

/-! ### O3 and O4: power-on and the reset state (01 Table 1.1.1, 08 R153)

Every table of the part is at power-on one record repeated; these say which. -/

section

variable (a : BitVec 5) (r : BitVec 2) (x y : Bool) (n : Nat) (p : List Instr)

theorem powerOn_slot (k : SlotId) : (State.powerOn a r x y n p).cue.slots[k] = Slot.powerOn := by
  simp [State.powerOn]

theorem powerOn_window (w : WindowId) :
    (State.powerOn a r x y n p).pitch.windows[w] =
      { enabled := false, firstPitch := 0, count := 1, firstGroup := 0 } := by
  simp [State.powerOn, PitchMap.powerOn]

theorem powerOn_group (g : GroupId) :
    (State.powerOn a r x y n p).pitch.groups[g] =
      { members := [], curve := 0, policy := .delay, delayLimitMs := 5 } := by
  simp [State.powerOn, PitchMap.powerOn]

theorem powerOn_curve (c : CurveId) : (State.powerOn a r x y n p).pitch.curves[c] = Curve.powerOn := by
  simp [State.powerOn, PitchMap.powerOn]

theorem powerOn_phase (i : Fin 64) :
    (State.powerOn a r x y n p).rail.table[i] = some (Fin.ofNat 4 i.val) := by
  simp [State.powerOn, RailArbiter.powerOn, PhaseTable.powerOn, Vector.getElem_mk]

theorem powerOn_rail (i : RailId) : (State.powerOn a r x y n p).rail.rails[i] = Rail.powerOn := by
  simp [State.powerOn, RailArbiter.powerOn]

theorem powerOn_strike (c : ChannelId) :
    (State.powerOn a r x y n p).drive.strikes[c] = StrikeChannel.powerOn := by
  simp [State.powerOn, DriveUnit.powerOn]

theorem powerOn_hold (h : HoldId) :
    (State.powerOn a r x y n p).drive.holds[h] = { rail := 0, load := 0, on := false } := by
  simp [State.powerOn, DriveUnit.powerOn]

theorem powerOn_rotor (m : RotorId) :
    (State.powerOn a r x y n p).drive.rotors[m] =
      { rail := 0, load := 0, rampStep := 10, target := 0, current := 0, hushRamp := false, timer := none } := by
  simp [State.powerOn, DriveUnit.powerOn]

theorem powerOn_kind (k : ErrorKind) :
    (State.powerOn a r x y n p).fault.kinds[k.number] = KindRecord.powerOn
      (match k with
        | .linkCheck | .linkFraming | .linkTruncated | .strikeLate | .strikeBusy | .clockSlip => .advisory
        | .driveShort => .fatal
        | .linkOverrun | .replyLost | .pitchUnmapped | .railOverload | .driveOpen | .pendantLost => .nonfatal) := by
  cases k <;> rfl

theorem powerOn_fault :
    (a ≠ 31 → (State.powerOn a r x y n p).fault.capture = none ∧
      (State.powerOn a r x y n p).fault.flags = AttentionFlag.restarted.bit) ∧
    (a = 31 → (State.powerOn a r x y n p).fault.capture = some CaptureRecord.strapNotice ∧
      (State.powerOn a r x y n p).fault.flags = AttentionFlag.restarted.bit ||| AttentionFlag.nonfatal.bit) := by
  constructor <;> intro h <;>
    simp only [State.powerOn, FaultMonitor.powerOn, h, if_true, if_false, true_and] <;> decide

theorem powerOn_unit (l : Link) :
    (State.powerOn a r x y n p).unit l =
      LinkUnit.powerOn (match l with | .showLink => x | .servicePort => y) := by
  cases l <;> rfl

end

/-- Settles O3, from the power-on record of each block. -/
theorem powerOnValues : Obligations.PowerOnValues := by
  unfold Obligations.PowerOnValues
  intro address rate showAtSpace serviceAtSpace s
  obtain ⟨hplain, hstrap⟩ := powerOn_fault address rate showAtSpace serviceAtSpace s.freeCount s.pending
  refine ⟨State.powerOn address rate showAtSpace serviceAtSpace s.freeCount s.pending, rfl, rfl, rfl, rfl,
    powerOn_slot _ _ _ _ _ _, rfl, powerOn_window _ _ _ _ _ _, powerOn_group _ _ _ _ _ _, powerOn_curve _ _ _ _ _ _,
    rfl, rfl, powerOn_phase _ _ _ _ _ _, rfl, rfl, powerOn_rail _ _ _ _ _ _, powerOn_strike _ _ _ _ _ _,
    powerOn_hold _ _ _ _ _ _, powerOn_rotor _ _ _ _ _ _, rfl, fun k => ?_, rfl, rfl, hplain, hstrap,
    fun l => ?_, rfl, rfl, rfl⟩
  · rw [powerOn_kind]
    exact ⟨rfl, rfl, rfl, rfl⟩
  · rw [powerOn_unit]
    cases l <;> rfl

/-! #### The laws at reset -/

theorem reset_slots_empty (k : SlotId) : State.reset.cue.slots[k].state = .empty := by
  unfold State.reset
  rw [powerOn_slot]
  rfl

theorem reset_strike (c : ChannelId) : State.reset.drive.strikes[c] = StrikeChannel.powerOn :=
  powerOn_strike _ _ _ _ _ _ c

theorem reset_rail (r : RailId) : State.reset.rail.rails[r] = Rail.powerOn :=
  powerOn_rail _ _ _ _ _ _ r

theorem reset_roleLaw : RoleLaw State.reset := by
  refine ⟨fun j _ hj => ?_, ⟨⟨?_, ?_⟩, ⟨?_, ?_⟩⟩, fun f hf => ?_, fun f hf => ?_⟩
  · simp only [holdsRole, reset_slots_empty] at hj
    cases hj
  · exact (nomatch ·)
  · rintro ⟨k, hk⟩; rw [reset_slots_empty] at hk; cases hk
  · exact (nomatch ·)
  · rintro ⟨k, hk⟩; rw [reset_slots_empty] at hk; cases hk
  · cases hf
  · cases hf

/-- Settles O4, law by law: no slot holds anything, no channel is fenced or driven, and every table is at power-on. -/
theorem resetSatisfiesTheLaws : Obligations.ResetSatisfiesTheLaws := by
  unfold Obligations.ResetSatisfiesTheLaws
  refine ⟨rfl, rfl, fun r h => ?overloadLatched, fun r => ?nearFlagTrue, fun c h => ?fencedSilent,
    ⟨Nat.zero_le _, .nil⟩, ⟨Nat.zero_le _, Nat.zero_le _⟩, rfl, fun k => ?ringsInOrder, fun h => ?hushingSilent,
    reset_roleLaw, fun i j _ => ?windowsApart, fun i => ?windowsValid, fun g c => ?membershipAgrees, fun _ => rfl,
    ⟨.nil, fun k => ?stackNames⟩, ⟨.nil, fun k => ?waitingNames⟩⟩
  case overloadLatched => rw [reset_rail] at h; exact absurd h (by decide)
  case nearFlagTrue => rw [reset_rail]; decide
  case fencedSilent => rw [reset_strike] at h; cases h
  case ringsInOrder =>
    unfold State.reset
    rw [powerOn_slot]
    exact ⟨by decide, .nil⟩
  case hushingSilent => cases h
  case windowsApart => unfold State.reset; rw [powerOn_window, powerOn_window]; rfl
  case windowsValid => unfold State.reset; rw [powerOn_window]; rfl
  case membershipAgrees =>
    rw [reset_strike]
    unfold State.reset
    rw [powerOn_group]
    exact ⟨(nomatch ·), (nomatch ·)⟩
  case stackNames => rw [reset_slots_empty]; exact ⟨(nomatch ·), (nomatch ·)⟩
  case waitingNames => rw [reset_slots_empty]; exact ⟨(nomatch ·), (nomatch ·)⟩

end Sys2Proof.Machine

namespace Sys2Proof.Machine

open Safety

/-! ### O56: every ring bounded and in tick order (01 R4)

The law speaks of the ticks of each ring alone. Every change but the joining of a batch leaves each ring a sublist of
the ticks it had (`TicksWithin`), and a sublist of a bounded, ordered list is bounded and ordered. -/

/-- A list of ticks that a ring may hold (01 R4). -/
def RingLaw (ticks : List Nat) : Prop := ticks.length ≤ 256 ∧ InTickOrder ticks

theorem RingLaw.sublist {l m : List Nat} (h : l.Sublist m) (hm : RingLaw m) : RingLaw l :=
  ⟨Nat.le_trans h.length_le hm.1, hm.2.sublist h⟩

theorem ringTicks_length (r : Ring) : (ringTicks r).length = r.occupancy := by
  simp [ringTicks, Ring.occupancy]

theorem ringsInOrder_iff (s : State) : RingsInOrder s ↔ ∀ k : SlotId, RingLaw (ringTicks s.cue.slots[k].ring) := by
  simp only [RingsInOrder, RingLaw, ringTicks_length]

/-! #### The operations on one slot -/

/-- A rewind moves the boundary of the two regions and no entry (01 R6). -/
theorem ringTicks_rewind (target : Nat) (x : Slot) : ringTicks (x.rewind target).ring = ringTicks x.ring := by
  have hsplit : ∀ l : List Committed, (splitAtTick target l).1 ++ (splitAtTick target l).2 = l := fun l => by
    rw [(splitAtTick_eq target l).1, (splitAtTick_eq target l).2, List.takeWhile_append_dropWhile]
  have hl := hsplit x.ring.retained
  unfold Slot.rewind
  split
  · rfl
  · next kept c rest hs =>
    rw [hs] at hl
    simp only [ringTicks, ← hl]
    simp [Function.comp_def]

theorem ringTicks_rewindToFreeze (p : PauseRecord) (x : Slot) :
    ringTicks (x.rewindToFreeze p).ring = ringTicks x.ring := by
  unfold Slot.rewindToFreeze
  split
  · exact ringTicks_rewind _ x
  · rfl
  · rfl

/-- The slot of a resumed cue holds the entries it held (02 R37). -/
theorem ringTicks_restored (r : ContextRecord) (x : Slot) : ringTicks (x.restored r).ring = ringTicks x.ring := by
  unfold Slot.restored
  dsimp only
  split <;> simp only [ringTicks_rewind]

/-- A release drops entries from the front (01 R23). -/
theorem ringTicks_releaseEntries (now : Time) (x : Slot) :
    (ringTicks (x.releaseEntries now).ring).Sublist (ringTicks x.ring) :=
  ((List.dropWhile_sublist _).map _).append_right _

/-- The commit cursor passes an entry that stays where it is (01 R5). -/
theorem ringTicks_advance (note : Annotation) (x : Slot) : ringTicks (x.advance note).ring = ringTicks x.ring := by
  unfold Slot.advance
  split
  · next e rest h => simp [ringTicks, h]
  · rfl

theorem ringTicks_emptied (x : Slot) : (ringTicks x.emptied.ring).Sublist (ringTicks x.ring) := by
  unfold Slot.emptied
  split
  · exact .refl _
  all_goals exact List.nil_sublist _

/-! #### The whole part -/

/-- Each ring of `t` holds the ticks of that ring in `s`, but for some that it may have lost. -/
def TicksWithin (s t : State) : Prop :=
  ∀ k : SlotId, (ringTicks t.cue.slots[k].ring).Sublist (ringTicks s.cue.slots[k].ring)

theorem TicksWithin.trans {s t u : State} (h : TicksWithin s t) (g : TicksWithin t u) : TicksWithin s u :=
  fun k => (g k).trans (h k)

theorem TicksWithin.of_slots {s t : State} (h : t.cue.slots = s.cue.slots) : TicksWithin s t := by
  intro k; rewrite [h]; exact .refl _

theorem TicksWithin.refl (s : State) : TicksWithin s s := .of_slots rfl

/-- A change of one slot. -/
theorem updSlot_within {s : State} {k : SlotId} {f : Slot → Slot}
    (h : ∀ x, (ringTicks (f x).ring).Sublist (ringTicks x.ring)) : TicksWithin s (updSlot k f s) := by
  intro j
  rw [updSlot_cue_slots, upd_get]
  split
  · exact h _
  · exact .refl _

theorem updSlot_within_of_ticks {s : State} {k : SlotId} {f : Slot → Slot}
    (h : ∀ x, ringTicks (f x).ring = ringTicks x.ring) : TicksWithin s (updSlot k f s) :=
  updSlot_within fun x => h x ▸ .refl _

theorem updSlot_within_of_ring {s : State} {k : SlotId} {f : Slot → Slot} (h : ∀ x, (f x).ring = x.ring) :
    TicksWithin s (updSlot k f s) :=
  updSlot_within_of_ticks fun x => congrArg ringTicks (h x)

theorem TicksWithin.keeps {s t : State} (h : TicksWithin s t) (hs : RingsInOrder s) : RingsInOrder t := by
  rw [ringsInOrder_iff] at hs ⊢
  exact fun k => (hs k).sublist (h k)

theorem setFlag_within (f : AttentionFlag) (s : State) : TicksWithin s (setFlag f s) := .of_slots rfl

theorem setSection_within (st : SectionState) (s : State) : TicksWithin s (setSection st s) := .of_slots rfl

theorem notices_within (k : SlotId) (s : State) : TicksWithin s (noticeUnderrun k (noticeLow k s)) :=
  .of_slots (by simp)

theorem emptySlot_within (k : SlotId) (s : State) : TicksWithin s (emptySlot k s) :=
  updSlot_within (s := withdraw k s) ringTicks_emptied

theorem sound_within (k : SlotId) (s : State) : TicksWithin s (sound k s) := by
  have hstate : TicksWithin s (updSlot k (fun x => { x with state := .sounding }) s) :=
    updSlot_within_of_ring fun _ => rfl
  exact hstate.trans (.of_slots (by simp [sound]))

theorem startSlot_within (k : SlotId) (s : State) : TicksWithin s (startSlot k s) := by
  have hanchor : TicksWithin (leaveWaiting k s) (updSlot k
      (fun x => { x.withAnchor (leadAnchor s x.timing.tempo x) with waitingOrder := none }) (leaveWaiting k s)) :=
    updSlot_within_of_ring fun _ => rfl
  exact TicksWithin.trans (.of_slots (by simp)) (hanchor.trans (sound_within k _))

theorem judgeWaiting_within (s : State) : TicksWithin s (judgeWaiting s) := by
  unfold judgeWaiting
  split
  · exact startSlot_within _ s
  · exact .refl s

theorem freezeSounding_within (k : SlotId) (s : State) : TicksWithin s (freezeSounding k s).2 :=
  updSlot_within_of_ticks (s := withdraw k s) fun x => ringTicks_rewindToFreeze _ x

theorem freezeOccupant_within (k : SlotId) (s : State) : TicksWithin s (freezeOccupant k s).2 := by
  unfold freezeOccupant
  split
  · exact .refl s
  · exact freezeSounding_within k s

theorem preempt_within (k : SlotId) (s : State) : TicksWithin s (preempt k s) :=
  .trans (freezeOccupant_within k s) (updSlot_within_of_ring (s := (freezeOccupant k s).2) fun _ => rfl)

theorem resume_within (r : ContextRecord) (rest : List ContextRecord) (s : State) :
    TicksWithin s (resume r rest s) := by
  unfold resume
  have hdriven : TicksWithin s (restoreDrive r { s with arb.stack := rest }) := .of_slots (by simp)
  refine .trans ?_ (sound_within r.slot _)
  refine .trans ?_ (setFlag_within .preempt _)
  refine .trans ?_ (updSlot_within_of_ring fun _ => rfl)
  exact hdriven.trans (updSlot_within_of_ticks (f := .restored r) (ringTicks_restored r))

theorem handOn_within (s : State) : TicksWithin s (handOn s) := by
  unfold handOn
  split <;> split
  · exact startSlot_within _ s
  · exact resume_within _ _ s
  · exact startSlot_within _ s
  · exact .refl s

theorem arrive_within (f : Firing) (s : State) : TicksWithin s (arrive f s) := by
  unfold arrive
  split
  case h_6 e _ =>
    refine .trans (.of_slots ?_) (.trans (emptySlot_within e.slot _) (handOn_within _))
    simp
  all_goals exact .of_slots (by simp)

theorem arriveInTurn_within (fs : List Firing) (s : State) : TicksWithin s (arriveInTurn fs s) :=
  arriveInTurn_law (P := TicksWithin s) (fun f t _ h => h.trans (arrive_within f t)) fs s (.refl s)

theorem arriveIfReached_within (placed : Option Firing) (s : State) : TicksWithin s (arriveIfReached placed s) := by
  unfold arriveIfReached
  split
  · split
    · exact arriveInTurn_within _ s
    · exact .refl s
  · exact .refl s

/-- The effect of an entry reaches no ring (01 R20 to R22). -/
theorem commitEffect_within (k : SlotId) (e : Event) (due : Time) (s : State) :
    TicksWithin s (commitEffect k e due s).1 := by
  unfold commitEffect
  dsimp only
  split
  case h_6 => exact updSlot_within_of_ring fun _ => rfl
  case h_7 => exact updSlot_within_of_ring fun _ => rfl
  all_goals exact .of_slots (by simp)

theorem commitEntry_within (k : SlotId) (e : Event) (due : Time) (s : State) :
    TicksWithin s (commitEntry k e due s) := by
  have hpassed : ∀ (note : Annotation) (v : State),
      TicksWithin v (updSlot k (fun x => (x.advance note).releaseEntries s.now) v) := fun note v =>
    updSlot_within fun x => ringTicks_advance note x ▸ ringTicks_releaseEntries _ _
  unfold commitEntry
  exact (commitEffect_within k e due s).trans
    ((hpassed _ _).trans ((notices_within k _).trans (arriveIfReached_within _ _)))

theorem commitHead_within (k : SlotId) (s : State) : TicksWithin s (commitHead k s) := by
  unfold commitHead
  split
  · split
    · exact commitEntry_within k _ _ s
    · exact .refl s
  · exact .refl s

theorem dropSlot_within (k : SlotId) (s : State) : TicksWithin s (dropSlot k s) := by
  unfold dropSlot
  split
  · exact .trans (emptySlot_within k s) (handOn_within _)
  · exact .trans (emptySlot_within k s) (handOn_within _)
  · exact emptySlot_within k (leaveStack k s)
  · exact emptySlot_within k (leaveWaiting k s)
  · exact emptySlot_within k s
  · exact .refl s

theorem takeRole_within (k : SlotId) (s : State) : TicksWithin s (takeRole k s) := by
  unfold takeRole
  split
  · exact .trans (preempt_within _ s) (startSlot_within k _)
  · exact startSlot_within k s

theorem enterWaiting_within (k : SlotId) (s : State) : TicksWithin s (enterWaiting k s) := by
  unfold enterWaiting
  exact .trans (.of_slots rfl) (updSlot_within_of_ring fun _ => rfl)

theorem pauseSlot_within (k : SlotId) (s : State) : TicksWithin s (pauseSlot k s) := by
  unfold pauseSlot
  refine .trans ?_ (setSection_within .paused _)
  exact .trans (freezeSounding_within k s) (updSlot_within_of_ring fun _ => rfl)

theorem continueSlot_within (k : SlotId) (s : State) : TicksWithin s (continueSlot k s) := by
  refine .trans ?_ (sound_within k _)
  exact updSlot_within_of_ring fun _ => rfl

theorem placeTest_within (sh : Shot) (s : State) : TicksWithin s (placeTest sh s) := by
  have hplaced : TicksWithin s (placeFiring s.now (.test sh) s) := .of_slots (by simp)
  exact hplaced.trans (arrive_within _ _)

theorem beginHush_within (target : HushTarget) (halt : Bool) (s : State) :
    TicksWithin s (beginHush target halt s) := by
  intro k
  have h : (beginHush target halt s).cue.slots = mapAll Slot.emptied s.cue.slots := by
    simp [beginHush, hushStart, hushCues]
  rw [h, mapAll_get]
  exact ringTicks_emptied _

theorem foldl_slots {α : Type} (f : State → α → State) (hf : ∀ t a, (f t a).cue.slots = t.cue.slots) (l : List α)
    (s : State) : (l.foldl f s).cue.slots = s.cue.slots := by
  induction l generalizing s with
  | nil => rfl
  | cons a l ih => rw [List.foldl_cons, ih, hf]

theorem changeRail_slots (r : RailId) (f : Rail → Rail) (s : State) :
    (changeRail r f s).cue.slots = s.cue.slots := by
  unfold changeRail raiseOverload
  split <;> simp

theorem switchTable_slots (s : State) : (switchTable s).cue.slots = s.cue.slots := by
  unfold switchTable
  split <;> rfl

theorem accountRails_slots (s : State) : (accountRails s).cue.slots = s.cue.slots :=
  foldl_slots _ (fun _ _ => changeRail_slots _ _ _) _ s

theorem walkGrants_slots (v : BitVec 96) (n : Nat) (l : List Firing) (s : State) :
    (walkGrants v n l s).cue.slots = s.cue.slots := by
  induction l generalizing n s with
  | nil => rw [walkGrants]
  | cons f rest ih =>
    rw [walkGrants]
    split
    · exact ih n s
    · split
      · exact ih n s
      · split
        · rfl
        · split
          · rw [ih]; simp [grant]
          · rfl

theorem startPhase_slots (v : BitVec 96) (s : State) : (startPhase v s).cue.slots = s.cue.slots := by
  have hadm : ∀ t, (admission v t).cue.slots = t.cue.slots := fun t => by
    unfold admission
    split
    · exact walkGrants_slots _ _ _ t
    · rfl
  rw [startPhase, hadm, accountRails_slots, switchTable_slots]

theorem settleChannel_slots (c : ChannelId) (noCurrent : Bool) (s : State) :
    (settleChannel c noCurrent s).cue.slots = s.cue.slots := by
  unfold settleChannel
  split
  · rfl
  · split <;> simp
  · split <;> simp

theorem setMembership_slots (v : Option GroupId) (l : List ChannelId) (s : State) :
    (setMembership v l s).cue.slots = s.cue.slots :=
  foldl_slots (fun t c => updStrike c (fun x => { x with group := v }) t) (fun _ _ => rfl) l s

theorem acceptFrame_slots (l : Link) (b : BufferedFrame) (s : State) :
    (acceptFrame l b s).cue.slots = s.cue.slots := by simp [acceptFrame]

/-! #### The joining of a batch -/

theorem ringTicks_join (es : List Event) (r : Ring) :
    ringTicks (r.join es) = ringTicks r ++ es.map Event.tick := by
  simp [ringTicks, Ring.join]

theorem lastTick_eq (r : Ring) : r.lastTick = (ringTicks r).getLast? := by
  unfold Ring.lastTick ringTicks
  rw [List.getLast?_append, List.getLast?_map, List.getLast?_map]
  cases r.unplayed.getLast? <;> cases r.retained.getLast? <;> rfl

/-- The anchor that a batch may set is no part of the ring (01 R11 step 3). -/
theorem anchorAtBatch_ring (showNow : Time) (es : List Event) (x : Slot) :
    (anchorAtBatch showNow es x).ring = x.ring := by
  unfold anchorAtBatch
  split <;> rfl

/-- The fourth check of EVENTS, in the words of the statements (01 R10). -/
theorem inOrder_iff (low : Nat) (es : List Event) : inOrder low es = true ↔ BatchInOrder low es := by
  induction es generalizing low with
  | nil => simp [inOrder, BatchInOrder]
  | cons e rest ih =>
    have hticks : (low :: (e :: rest).map Event.tick).Pairwise (· ≤ ·) ↔
        low ≤ e.tick ∧ (e.tick :: rest.map Event.tick).Pairwise (· ≤ ·) := by
      rw [List.map_cons, List.pairwise_cons]
      refine and_congr_left fun hp => ⟨fun h => h _ List.mem_cons_self, fun h t ht => ?_⟩
      rcases List.mem_cons.mp ht with rfl | ht
      · exact h
      · exact Nat.le_trans h (List.rel_of_pairwise_cons hp ht)
    have hending : (∀ d ∈ (e :: rest).dropLast, d.data ≠ .ending) ↔
        (e.data ≠ .ending ∨ rest = []) ∧ ∀ d ∈ rest.dropLast, d.data ≠ .ending := by
      cases rest with
      | nil => simp
      | cons d rest => simp
    simp only [inOrder, Bool.and_eq_true, decide_eq_true_eq, ih, BatchInOrder, hticks, hending, Bool.or_eq_true,
      bne_iff_ne, List.isEmpty_iff]
    exact ⟨fun ⟨⟨hlow, hend⟩, hticks, hends⟩ => ⟨⟨hlow, hticks⟩, hend, hends⟩,
      fun ⟨⟨hlow, hticks⟩, hend, hends⟩ => ⟨⟨hlow, hend⟩, hticks, hends⟩⟩

theorem InTickOrder.append {l m : List Nat} (hl : InTickOrder l)
    (hm : (l.getLast?.getD 0 :: m).Pairwise (· ≤ ·)) : InTickOrder (l ++ m) := by
  refine List.pairwise_append.mpr ⟨hl, hm.of_cons, fun a ha b hb => ?_⟩
  rcases List.eq_nil_or_concat l with rfl | ⟨front, z, rfl⟩
  · exact absurd ha List.not_mem_nil
  · have hz : z ≤ b := by simpa using List.rel_of_pairwise_cons hm hb
    rw [List.concat_eq_append, List.mem_append, List.mem_singleton] at ha
    rcases ha with ha | rfl
    · rw [List.concat_eq_append] at hl
      exact Nat.le_trans ((List.pairwise_append.mp hl).2.2 a ha z (by simp)) hz
    · exact hz

/-- A batch that passed the checks of EVENTS leaves its ring bounded and in order (01 R10, R11). -/
theorem join_ringLaw {r : Ring} {es : List Event} (hr : RingLaw (ringTicks r))
    (ho : inOrder (r.lastTick.getD 0) es = true) (hf : es.length ≤ r.freeCount) :
    RingLaw (ringTicks (r.join es)) := by
  obtain ⟨hlen, hord⟩ := hr
  rw [lastTick_eq] at ho
  rw [ringTicks_join]
  refine ⟨?_, InTickOrder.append hord ((inOrder_iff _ _).mp ho).1⟩
  rw [ringTicks_length] at hlen
  rw [List.length_append, List.length_map, ringTicks_length]
  unfold Ring.freeCount at hf
  omega

/-! #### Every change -/

/-- A slot that is opened or at power-on holds no entry (01 R3, R9). -/
theorem ringLaw_powerOn : RingLaw (ringTicks Ring.powerOn) := ⟨by decide, .nil⟩

theorem updSlot_ringsInOrder {k : SlotId} {f : Slot → Slot} {s : State} (hs : RingsInOrder s)
    (hk : RingLaw (ringTicks (f s.cue.slots[k]).ring)) : RingsInOrder (updSlot k f s) := by
  rw [ringsInOrder_iff] at hs ⊢
  intro j
  rw [updSlot_cue_slots, upd_get]
  split
  · next h => subst h; exact hk
  · exact hs j

theorem change_ringsInOrder {s t : State} (h : Change s t) (hs : RingsInOrder s) : RingsInOrder t := by
  induction h with
  | refl => exact hs
  | trans _ _ ih1 ih2 => exact ih2 (ih1 hs)
  | calm h => exact TicksWithin.keeps (.of_slots h.slots) hs
  | powerOn a r x y n p s =>
    rw [ringsInOrder_iff]
    intro k
    rw [powerOn_slot]
    exact ringLaw_powerOn
  | openCue k c s => exact updSlot_ringsInOrder hs ringLaw_powerOn
  | events k es s _ _ ho hf =>
    refine updSlot_ringsInOrder hs ?_
    rw [anchorAtBatch_ring]
    exact join_ringLaw ((ringsInOrder_iff s).mp hs k) ho hf
  | accept l b s => exact TicksWithin.keeps (.of_slots (acceptFrame_slots l b s)) hs
  | slotDetails k g s h => exact (updSlot_within_of_ring fun x => (h x).2).keeps hs
  | takeRole k s => exact (takeRole_within k s).keeps hs
  | enterWaiting k s => exact (enterWaiting_within k s).keeps hs
  | pause k s => exact (pauseSlot_within k s).keeps hs
  | continue_ k s => exact (continueSlot_within k s).keeps hs
  | drop k s => exact (dropSlot_within k s).keeps hs
  | judge s => exact (judgeWaiting_within s).keeps hs
  | commit k s => exact (commitHead_within k s).keeps hs
  | arrive f s => exact (arrive_within f s).keeps hs
  | test sh s => exact (placeTest_within sh s).keeps hs
  | hush target halt s => exact (beginHush_within target halt s).keeps hs
  | group g new s =>
    exact TicksWithin.keeps (.of_slots ((setMembership_slots _ _ _).trans (setMembership_slots _ _ _))) hs
  | railSetting r limit drain s => exact TicksWithin.keeps (.of_slots (changeRail_slots _ _ s)) hs
  | channel c g noCurrent s => exact TicksWithin.keeps (.of_slots (settleChannel_slots c noCurrent _)) hs
  | recoveryEnd c noCurrent s => exact TicksWithin.keeps (.of_slots (by simp)) hs
  | phase noCurrent s => exact TicksWithin.keeps (.of_slots (startPhase_slots noCurrent s)) hs
  | leave f s => exact TicksWithin.keeps (.of_slots (by simp)) hs
  | complete s => exact TicksWithin.keeps (.of_slots (by simp)) hs
  | takeover s => exact TicksWithin.keeps (.of_slots (by simp)) hs
  | removeTests s => exact TicksWithin.keeps (.of_slots (by simp)) hs
  | window | lanes | railLatch | takeOut | short | unfence | pulseEnd | halt | toHalted | toQuiet => exact hs

/-- Settles O56: every change that a step is made of loses ticks or joins a batch that was checked. -/
theorem ringsKept : Obligations.RingsKept := by
  unfold Obligations.RingsKept
  exact law_of_changes fun _ _ => change_ringsInOrder

end Sys2Proof.Machine

namespace Sys2Proof.Machine

open Safety

/-! ### Addressed requests (09 R173 to R175)

`answers_addressed` is the envelope of an addressed request, so that each request's proof is about its own rule. -/

/-- An addressed request that passes the envelope checks is answered as its rule answers. -/
theorem answers_addressed {kind : Byte} {c : Instr} {f : Frame} {s t u : State} {p : Permission}
    {decode : List Byte → Option Action} {act : Action} {code : ReplyCode} {data : List Byte}
    (h : Offered kind f s t) (hc : exec c s = takeRequest kind p f decode s) (hp : p.allows f = true)
    (hd : decode f.fields = some act) (ha : act t = (u, { code := code, data := data })) :
    Answers kind c f s code data u := by
  unfold Answers Completes
  rw [hc]
  exact takeRequest_done h hp hd ha

/-- The same for a broadcast, which is not answered (09 R174). -/
theorem completes_broadcast {kind : Byte} {c : Instr} {f : Frame} {s t u : State} {p : Permission}
    {decode : List Byte → Option Action} {act : Action}
    (h : OfferedToAll kind f s t) (hc : exec c s = takeRequest kind p f decode s) (hp : p.allows f = true)
    (hd : decode f.fields = some act) (ha : (act t).1 = u) : Completes c s u := by
  unfold Completes
  rw [hc, takeRequest_toAll h hp hd, ha]

/-! #### SET HORIZON, SET LATE LIMITS and SET BREAK HUSH (01 R18, 04 R85, 07 R137) -/

theorem setHorizon_answers {f : Frame} {s t u : State} {ms : Byte} {code : ReplyCode} {data : List Byte}
    (h : Offered 0x13 f s t) (hf : f.fields = [ms]) (ha : setHorizonAct f.link ms t = (u, ⟨code, data⟩)) :
    Answers 0x13 (.setHorizon f) f s code data u :=
  answers_addressed (decode := setHorizonBody f.link) h rfl (addressed_allows h) (by rw [hf]; rfl) ha

theorem setLateLimits_answers {f : Frame} {s t u : State} {lane0 lane1 : Byte} {code : ReplyCode} {data : List Byte}
    (h : Offered 0x41 f s t) (hf : f.fields = [lane0, lane1])
    (ha : setLateLimitsAct f.link lane0 lane1 t = (u, ⟨code, data⟩)) :
    Answers 0x41 (.setLateLimits f) f s code data u :=
  answers_addressed (decode := setLateLimitsBody f.link) h rfl (addressed_allows h) (by rw [hf]; rfl) ha

theorem setBreakHush_answers {f : Frame} {s t u : State} {enable : Byte} {code : ReplyCode} {data : List Byte}
    (h : Offered 0x76 f s t) (hf : f.fields = [enable])
    (ha : setBreakHushAct f.link enable t = (u, ⟨code, data⟩)) :
    Answers 0x76 (.setBreakHush f) f s code data u :=
  answers_addressed (decode := setBreakHushBody f.link) h rfl (addressed_allows h) (by rw [hf]; rfl) ha

/-- A number up to 255 is read back from its byte. -/
theorem byteOf_toNat (b : Byte) : byteOf b.toNat = b := by simp [byteOf]

/-- Settles O17, request by request: the value is out of its range or the setting takes it. -/
theorem partSettings : Obligations.PartSettings := by
  unfold Obligations.PartSettings
  intro f s t hn
  refine ⟨fun ms h hf => ⟨fun hr => ?_, fun h5 h100 => ?_⟩, fun lane0 lane1 h hf => ⟨fun hr => ?_, fun h0 h1 => ?_⟩,
    fun enable h hf => ⟨fun hr => ?_, fun on he => ?_⟩⟩
  · refine setHorizon_answers h hf ?_
    rw [setHorizonAct, unlessTaken_free hn, if_neg (by omega)]
    rfl
  · refine setHorizon_answers h hf ?_
    rw [setHorizonAct, unlessTaken_free hn, if_pos ⟨h5, h100⟩]
    rfl
  · refine setLateLimits_answers h hf ?_
    rw [setLateLimitsAct, unlessTaken_free hn, if_neg (by omega)]
    rfl
  · refine setLateLimits_answers h hf ?_
    rw [setLateLimitsAct, unlessTaken_free hn, if_pos ⟨h0, h1⟩]
    simp [Reply.done, limitsData, byteOf_toNat]
  · refine setBreakHush_answers h hf ?_
    rw [setBreakHushAct, unlessTaken_free hn, yesNo_none hr]
    rfl
  · refine setBreakHush_answers h hf ?_
    rw [setBreakHushAct, unlessTaken_free hn, he, yesNo_boolByte]
    rfl

/-! #### OPEN CUE (01 R9) -/

theorem openCue_answers {f : Frame} {s t u : State} {slot priority t2 t1 t0 beats mode l1 l0 low : Byte}
    {code : ReplyCode} {data : List Byte} (h : Offered 0x10 f s t)
    (hf : f.fields = [slot, priority, t2, t1, t0, beats, mode, l1, l0, low])
    (ha : openCueAct f.link slot priority t2 t1 t0 beats mode l1 l0 low t = (u, ⟨code, data⟩)) :
    Answers 0x10 (.openCue f) f s code data u :=
  answers_addressed (decode := openCueBody f.link) h rfl (addressed_allows h) (by rw [hf]; rfl) ha

/-- A mode byte is a code or is out of range (10 Table 10.1.1). -/
theorem rewindMode_cases (b : Byte) :
    (∃ m : RewindMode, b = m.code) ∧ b.toNat ≤ 2 ∨ RewindMode.ofCode b = none ∧ 2 < b.toNat := by
  by_cases h0 : b = 0
  · subst h0; exact .inl ⟨⟨.exactMode, rfl⟩, by decide⟩
  by_cases h1 : b = 1
  · subst h1; exact .inl ⟨⟨.beatMode, rfl⟩, by decide⟩
  by_cases h2 : b = 2
  · subst h2; exact .inl ⟨⟨.barMode, rfl⟩, by decide⟩
  · refine .inr ⟨by rw [RewindMode.ofCode, if_neg h0, if_neg h1, if_neg h2], ?_⟩
    bv_omega

theorem inRange_iff (c : CueSettings) :
    c.inRange = true ↔ c.priority ≤ 7 ∧ 200000 ≤ c.tempo ∧ c.tempo ≤ 2000000 ∧ 1 ≤ c.beatsPerBar ∧
      c.beatsPerBar ≤ 16 ∧ 20 ≤ c.leadInMs ∧ c.leadInMs ≤ 2000 := by
  simp [CueSettings.inRange, and_assoc]

section

variable {f : Frame} {t : State} {slot priority t2 t1 t0 beats mode l1 l0 low : Byte}

/-- OPEN CUE of a slot and a mode that are in range: the ranges of the other fields, and then the slot. -/
theorem openCueAct_eq {k : SlotId} {m : RewindMode} (hn : ¬ FromShowInService f t) (hk : slot.toNat = k.val)
    (hm : mode = m.code) :
    openCueAct f.link slot priority t2 t1 t0 beats mode l1 l0 low t =
      let c : CueSettings :=
        { priority := priority.toNat, tempo := u24 t2 t1 t0, beatsPerBar := beats.toNat, rewindMode := m,
          leadInMs := u16 l1 l0, lowWater := low.toNat }
      if c.inRange then openSlot k c t else refuse .range t := by
  rw [openCueAct, unlessTaken_free hn, toFin_eq hk, hm, rewindMode_code]
  dsimp only
  split <;> rfl

/-- The second check (01 R9): a field out of its range. -/
theorem openCueAct_range (hn : ¬ FromShowInService f t)
    (hr : ¬ (slot.toNat ≤ 3 ∧ priority.toNat ≤ 7 ∧ 200000 ≤ u24 t2 t1 t0 ∧ u24 t2 t1 t0 ≤ 2000000 ∧
      1 ≤ beats.toNat ∧ beats.toNat ≤ 16 ∧ mode.toNat ≤ 2 ∧ 20 ≤ u16 l1 l0 ∧ u16 l1 l0 ≤ 2000)) :
    openCueAct f.link slot priority t2 t1 t0 beats mode l1 l0 low t = (t, ⟨.range, []⟩) := by
  by_cases hslot : slot.toNat < 4
  · rcases rewindMode_cases mode with ⟨⟨m, hm⟩, hm2⟩ | ⟨hm, -⟩
    · rw [openCueAct_eq (k := ⟨slot.toNat, hslot⟩) hn rfl hm]
      refine if_neg ?_
      rw [inRange_iff]
      dsimp only
      omega
    · rw [openCueAct, unlessTaken_free hn, toFin_eq (i := ⟨slot.toNat, hslot⟩) rfl, hm]
      rfl
  · rw [openCueAct, unlessTaken_free hn, toFin_none (by omega)]
    rfl

end

/-- The third and fourth check (01 R9): the section and the slot's state. -/
theorem openSlot_refuses {k : SlotId} {c : CueSettings} {t : State}
    (h : t.sect.state = .halted ∨ t.sect.state = .hushing ∨ t.cue.slots[k].state ≠ .empty) :
    openSlot k c t = (t, ⟨.state, []⟩) := if_pos h

theorem openSlot_opens {k : SlotId} {c : CueSettings} {t : State} (h1 : t.sect.state ≠ .halted)
    (h2 : t.sect.state ≠ .hushing) (h3 : t.cue.slots[k].state = .empty) :
    openSlot k c t = (updSlot k (fun _ => Slot.opened c) t, ⟨.done, []⟩) :=
  if_neg (by rintro (h | h | h) <;> contradiction)

/-- Settles O14: a field out of range, then the section and the slot, then the opened record. -/
theorem openCue : Obligations.OpenCue := by
  unfold Obligations.OpenCue
  intro f s t slot priority t2 t1 t0 beats mode l1 l0 low h hf a inRange
  have opens : ∀ (k : SlotId) (m : RewindMode), ¬ FromShowInService f t → inRange → slot.toNat = k.val →
      mode = m.code → openCueAct f.link slot priority t2 t1 t0 beats mode l1 l0 low t =
        openSlot k ⟨priority.toNat, u24 t2 t1 t0, beats.toNat, m, u16 l1 l0, low.toNat⟩ t := by
    intro k m hn hr hk hm
    rw [openCueAct_eq hn hk hm]
    refine if_pos ?_
    rw [inRange_iff]
    obtain ⟨-, h1, h2, h3, h4, h5, -, h6, h7⟩ := hr
    exact ⟨h1, h2, h3, h4, h5, h6, h7⟩
  have mode_code : inRange → ∃ m : RewindMode, mode = m.code := by
    intro hr
    obtain ⟨-, -, -, -, -, -, hmode, -⟩ := hr
    rcases rewindMode_cases mode with ⟨hm, -⟩ | ⟨-, hm⟩
    · exact hm
    · omega
  refine ⟨fun hs => ?_, fun hn hr => ?_, fun hn hr hst => ?_, fun hn hr k hk he => ?_,
    fun hn hr hst1 hst2 k m hk he hm => ?_⟩ <;> refine openCue_answers h hf ?_
  · exact unlessTaken_taken hs
  · exact openCueAct_range hn hr
  · obtain ⟨m, hm⟩ := mode_code hr
    rw [opens ⟨slot.toNat, Nat.lt_succ_of_le hr.1⟩ m hn hr rfl hm]
    exact openSlot_refuses (hst.imp_right .inl)
  · obtain ⟨m, hm⟩ := mode_code hr
    rw [opens k m hn hr hk hm]
    exact openSlot_refuses (.inr (.inr he))
  · rw [opens k m hn hr hk hm]
    exact openSlot_opens hst1 hst2 he

end Sys2Proof.Machine

namespace Sys2Proof.Machine

open Safety

/-! #### EVENTS (01 R10, R11) -/

theorem allEvents_none {l : List (Option Event)} (h : none ∈ l) : allEvents l = none := by
  induction l with
  | nil => cases h
  | cons a l ih =>
    cases a with
    | none => rfl
    | some e => rw [allEvents, ih (by simpa using h)]; rfl

theorem allEvents_map_some (es : List Event) : allEvents (es.map some) = some es := by
  induction es with
  | nil => rfl
  | cons e es ih => rw [List.map_cons, allEvents, ih]; rfl

/-- Eight bytes or more hold a record (10 R182). -/
theorem eventRecords_ne_nil {l : List Byte} (h : 8 ≤ l.length) : eventRecords l ≠ [] := by
  match l with
  | _ :: _ :: _ :: _ :: _ :: _ :: _ :: _ :: _ => exact List.cons_ne_nil _ _
  | [] | [_] | [_, _] | [_, _, _] | [_, _, _, _] | [_, _, _, _, _] | [_, _, _, _, _, _] | [_, _, _, _, _, _, _] =>
    exact absurd h (by simp)

section

variable {f : Frame} {s t u : State} {slot count : Byte} {records : List Byte} {code : ReplyCode} {data : List Byte}

theorem events_answers (h : Offered 0x11 f s t) (hf : f.fields = slot :: count :: records)
    (hl : records.length = 8 * count.toNat) (ha : eventsAct f.link slot count records t = (u, ⟨code, data⟩)) :
    Answers 0x11 (.events f) f s code data u :=
  answers_addressed (decode := eventsBody f.link) h rfl (addressed_allows h)
    (by rw [hf]; exact if_pos hl) ha

/-- The second check (01 R10): the slot, the count and every field of every event. -/
theorem eventsAct_range (hn : ¬ FromShowInService f t)
    (hr : 3 < slot.toNat ∨ count.toNat = 0 ∨ 6 < count.toNat ∨ none ∈ eventRecords records) :
    eventsAct f.link slot count records t = (t, ⟨.range, []⟩) := by
  rw [eventsAct, unlessTaken_free hn]
  rcases hr with hr | hr | hr | hr
  · rw [toFin_none (by omega)]; rfl
  · cases toFin 4 slot <;> cases allEvents (eventRecords records) <;> try rfl
    exact congrFun (if_neg (by omega)) t
  · cases toFin 4 slot <;> cases allEvents (eventRecords records) <;> try rfl
    exact congrFun (if_neg (by omega)) t
  · rw [allEvents_none hr]
    cases toFin 4 slot <;> rfl

theorem eventsAct_eq {k : SlotId} {es : List Event} (hn : ¬ FromShowInService f t) (hk : slot.toNat = k.val)
    (h1 : 1 ≤ count.toNat) (h6 : count.toNat ≤ 6) (hes : eventRecords records = es.map some) :
    eventsAct f.link slot count records t = writeEvents k es t := by
  rw [eventsAct, unlessTaken_free hn, toFin_eq hk, hes, allEvents_map_some]
  exact congrFun (if_pos ⟨h1, h6⟩) t

end

/-- The ring that a batch joins is open, so END alone closes it (01 R11 steps 1 and 2). -/
theorem join_eq {r : Ring} (hr : r.closed = false) (es : List Event) :
    r.join es =
      { r with unplayed := r.unplayed ++ es, closed := decide (∃ e ∈ es, e.data = .ending) } := by
  have h : (es.any fun e => e.data == .ending) = decide (∃ e ∈ es, e.data = .ending) := by
    rw [Bool.eq_iff_iff]
    simp
  rw [Ring.join, hr, h, Bool.false_or]

section

variable {k : SlotId} {es : List Event} {t : State}

theorem takesEvents_iff :
    ¬ (t.sect.state = .halted ∨ t.cue.slots[k].state = .empty ∨ t.cue.slots[k].ring.closed = true) ↔
      t.sect.state ≠ .halted ∧ t.cue.slots[k].state ≠ .empty ∧ t.cue.slots[k].ring.closed = false := by
  simp only [not_or, Bool.not_eq_true, ne_eq]

/-- The third check (01 R10): the section, the slot and its ring. -/
theorem writeEvents_state
    (h : ¬ (t.sect.state ≠ .halted ∧ t.cue.slots[k].state ≠ .empty ∧ t.cue.slots[k].ring.closed = false)) :
    writeEvents k es t = (t, ⟨.state, []⟩) :=
  if_pos (Decidable.of_not_not (mt takesEvents_iff.mp h))

variable (hs : t.sect.state ≠ .halted ∧ t.cue.slots[k].state ≠ .empty ∧ t.cue.slots[k].ring.closed = false)
include hs

theorem writeEvents_eq :
    writeEvents k es t =
      if inOrder (t.cue.slots[k].ring.lastTick.getD 0) es = false then refuse .order t
      else if t.cue.slots[k].ring.freeCount < es.length then refuse .full t
      else (updSlot k (fun y => anchorAtBatch t.showNow es { y with ring := y.ring.join es }) t, .done []) :=
  if_neg (takesEvents_iff.mpr hs)

/-- The fourth check (01 R10): the ticks do not fall, and nothing follows an END. -/
theorem writeEvents_order (ho : ¬ BatchInOrder (t.cue.slots[k].ring.lastTick.getD 0) es) :
    writeEvents k es t = (t, ⟨.order, []⟩) := by
  rw [writeEvents_eq hs, if_pos (by rwa [← inOrder_iff, Bool.not_eq_true] at ho)]
  rfl

variable (ho : BatchInOrder (t.cue.slots[k].ring.lastTick.getD 0) es)
include ho

/-- The fifth check (01 R10): room in the ring. -/
theorem writeEvents_full
    (hf : 256 < t.cue.slots[k].ring.retained.length + t.cue.slots[k].ring.unplayed.length + es.length)
    (hne : es ≠ []) : writeEvents k es t = (t, ⟨.full, []⟩) := by
  rw [writeEvents_eq hs, if_neg (by rw [(inOrder_iff _ _).mpr ho]; decide), if_pos]
  · rfl
  · have := List.length_pos_iff.mpr hne
    unfold Ring.freeCount Ring.occupancy
    omega

/-- The batch joins the ring (01 R11). -/
theorem writeEvents_joins
    (hf : t.cue.slots[k].ring.retained.length + t.cue.slots[k].ring.unplayed.length + es.length ≤ 256) :
    writeEvents k es t =
      (updSlot k (fun y => anchorAtBatch t.showNow es { y with ring := y.ring.join es }) t, ⟨.done, []⟩) := by
  rw [writeEvents_eq hs, if_neg (by rw [(inOrder_iff _ _).mpr ho]; decide), if_neg]
  · rfl
  · unfold Ring.freeCount Ring.occupancy
    omega

end

/-- A batch anchors no slot but a SOUNDING one whose anchor is pending (01 R11 step 3). -/
theorem anchorAtBatch_keeps (showNow : Time) (es : List Event) {x : Slot} (r : Ring)
    (h : x.state ≠ .sounding ∨ ∃ tick time tempo, x.anchor = .set tick time tempo) :
    anchorAtBatch showNow es { x with ring := r } = { x with ring := r } := by
  unfold anchorAtBatch
  split
  · next hs ha =>
    rcases h with h | ⟨tick, time, tempo, h⟩
    · exact absurd hs h
    · rw [h] at ha; cases ha
  · rfl

theorem anchorAtBatch_anchors (showNow : Time) {e : Event} {es rest : List Event} {x : Slot} {tempo : Nat}
    (r : Ring) (hs : x.state = .sounding) (ha : x.anchor = .pending tempo) (he : es = e :: rest) :
    anchorAtBatch showNow es { x with ring := r } =
      { x with
        ring := r
        anchor := .set e.tick (showNow + (x.leadInMs : Int) * 1000) tempo
        timing := { x.timing with tempo := tempo } } := by
  unfold anchorAtBatch
  split
  · next p e' rest' _ ha' =>
    obtain ⟨rfl, rfl⟩ := List.cons.inj he
    obtain rfl := Anchor.pending.inj (ha.symm.trans ha')
    rfl
  · next hno => exact (hno tempo e rest hs ha he).elim

/-- Settles O16: the checks in their order, and then the ring with its anchor. -/
theorem events : Obligations.Events := by
  unfold Obligations.Events
  intro f s t slot count records h hn hf hl a
  refine ⟨fun hr => events_answers h hf hl (eventsAct_range hn hr), fun k es hk h1 h6 hes => ?_⟩
  intro x stands ordered
  have answers : ∀ {u : State} {code : ReplyCode}, writeEvents k es t = (u, ⟨code, []⟩) → a code [] u := fun ha =>
    events_answers h hf hl ((eventsAct_eq hn hk h1 h6 hes).trans ha)
  have nonempty : es ≠ [] := by
    rintro rfl
    exact eventRecords_ne_nil (by omega) hes
  refine ⟨fun hs => answers (writeEvents_state hs), fun hs ho => answers (writeEvents_order hs ho),
    fun hs ho hfull => answers (writeEvents_full hs ho hfull nonempty), fun hs ho hroom => ?_⟩
  intro joined
  have hjoin : x.ring.join es = joined := join_eq hs.2.2 es
  rw [← hjoin]
  refine ⟨fun hkeep => ?_, fun tempo e rest hst hanchor he => ?_⟩ <;>
    refine answers ((writeEvents_joins hs ho hroom).trans (congrArg (·, _) (updSlot_congr ?_)))
  · exact anchorAtBatch_keeps _ _ _ hkeep
  · exact anchorAtBatch_anchors _ _ hst hanchor he

end Sys2Proof.Machine

namespace Sys2Proof.Machine

open Safety

/-! #### DROP CUE (02 R41, Table 2.5.1) -/

section

variable {f : Frame} {s t : State} {slot : Byte}

theorem dropCue_range (h : Offered 0x23 f s t) (hn : ¬ FromShowInService f t) (hf : f.fields = [slot])
    (hr : 3 < slot.toNat) : Answers 0x23 (.dropCue f) f s .range [] t := by
  refine answers_addressed (decode := dropCueBody f.link) h rfl (addressed_allows h) (by rw [hf]; rfl) ?_
  rw [dropCueAct, unlessTaken_free hn, toFin_none hr]
  rfl

theorem dropCue_drops {k : SlotId} (h : Offered 0x23 f s t) (hn : ¬ FromShowInService f t) (hf : f.fields = [slot])
    (hk : slot.toNat = k.val) : Answers 0x23 (.dropCue f) f s .done [] (dropSlot k t) := by
  refine answers_addressed (decode := dropCueBody f.link) h rfl (addressed_allows h) (by rw [hf]; rfl) ?_
  rw [dropCueAct, unlessTaken_free hn, toFin_eq hk]
  rfl

end

/-- What a drop leaves, by the slot's state (02 Table 2.5.1). -/
theorem dropSlot_eq (k : SlotId) (s : State) :
    (s.cue.slots[k].state = .empty → dropSlot k s = s) ∧
    (s.cue.slots[k].state = .loaded → dropSlot k s = emptySlot k s) ∧
    (s.cue.slots[k].state = .waiting → dropSlot k s = emptySlot k (leaveWaiting k s)) ∧
    (s.cue.slots[k].state = .suspended → dropSlot k s = emptySlot k (leaveStack k s)) ∧
    (s.cue.slots[k].state = .sounding ∨ s.cue.slots[k].state = .paused →
      dropSlot k s = handOn (emptySlot k s)) := by
  unfold dropSlot
  refine ⟨fun h => ?_, fun h => ?_, fun h => ?_, fun h => ?_, ?_⟩
  case refine_5 => rintro (h | h) <;> rw [h]
  all_goals rw [h]

/-- Settles O21: the slot's number, and then what `dropSlot_eq` says of its state. -/
theorem dropCue : Obligations.DropCue := by
  unfold Obligations.DropCue
  intro f s t slot h hn hf a
  refine ⟨dropCue_range h hn hf, fun k hk => ?_⟩
  have hdone : a .done [] (dropSlot k t) := dropCue_drops h hn hf hk
  obtain ⟨hempty, hloaded, hwaiting, hsuspended, hrole⟩ := dropSlot_eq k t
  refine ⟨fun hst => ?_, fun hst => ⟨_, emptySlot_empties k t, ?_⟩,
    fun hst => ⟨_, emptySlot_empties k (leaveWaiting k t), ?_⟩,
    fun hst => ⟨_, emptySlot_empties k (leaveStack k t), ?_⟩,
    fun hst => ⟨_, _, emptySlot_empties k t, handOn_handsOn _, ?_⟩⟩
  · rwa [hempty hst] at hdone
  · rwa [hloaded hst] at hdone
  · rwa [hwaiting hst] at hdone
  · rwa [hsuspended hst] at hdone
  · rwa [hrole hst] at hdone

end Sys2Proof.Machine

namespace Sys2Proof.Machine

open Safety

/-! #### SYNC (01 R25) -/

section

variable {f : Frame} {s t : State} {completed : Time} {b5 b4 b3 b2 b1 b0 : Byte}

/-- SYNC is a broadcast, so it only acts (09 R174). -/
theorem sync_exec (h : presentFrame 0x14 f s = some (completed, t)) (hb : isBroadcast f = true)
    (hf : f.fields = [b5, b4, b3, b2, b1, b0]) :
    exec (.sync f) s = .next (settle s (syncAct completed (u48 b5 b4 b3 b2 b1 b0) t).1) := by
  have hbody : syncBody completed f.fields = some (syncAct completed (u48 b5 b4 b3 b2 b1 b0)) := by rw [hf]; rfl
  have hallows : Permission.broadcastOnly.allows f = true := hb
  change takeTimedRequest 0x14 .broadcastOnly f syncBody s = _
  rw [takeTimedRequest, h]
  simp only [answer, envelope, hb, hbody, hallows, if_true]

/-- A difference within 20,000 µs changes the offset in a bounded step (01 Table 1.8.1). -/
theorem syncAct_steps {master : Nat} {d : Int} (hd : d = master - (completed + t.cue.syncOffset)) (h1 : -20000 ≤ d)
    (h2 : d ≤ 20000) :
    (syncAct completed master t).1 =
      { t with cue := { t.cue with syncOffset := t.cue.syncOffset + max (-250) (min 250 d) } } := by
  have hslips : syncSlips d = false := by simp [syncSlips]; omega
  have hstep : syncStep d = max (-250) (min 250 d) := if_pos ⟨h1, h2⟩
  unfold syncAct
  dsimp only
  rw [← hd, hslips, hstep]
  rfl

/-- A greater difference changes the offset at once, and then CLOCK_SLIP is raised (01 Table 1.8.1, log 24). -/
theorem syncAct_slips {master : Nat} {d : Int} (hd : d = master - (completed + t.cue.syncOffset))
    (h : d < -20000 ∨ 20000 < d) :
    (syncAct completed master t).1 =
      raise { kind := .clockSlip, origin := .clock, detail := .clock d (t.cue.syncOffset + d) }
        { t with cue := { t.cue with syncOffset := t.cue.syncOffset + d } } := by
  have hslips : syncSlips d = true := by simp [syncSlips]; omega
  have hstep : syncStep d = d := if_neg (by omega)
  unfold syncAct
  dsimp only
  rw [← hd, hslips, hstep]
  rfl

end

/-! #### NUDGE (01 R26) -/

section

variable {f : Frame} {s t u : State} {percent : Byte}

theorem nudge_answers {code : ReplyCode} (h : Offered 0x15 f s t) (hf : f.fields = [percent])
    (ha : nudgeAct f.link percent t = (u, ⟨code, []⟩)) : Answers 0x15 (.nudge f) f s code [] u :=
  answers_addressed (p := .everyForm) (decode := nudgeBody f.link) h rfl rfl (by rw [hf]; rfl) ha

theorem nudge_completes (h : OfferedToAll 0x15 f s t) (hf : f.fields = [percent])
    (ha : (nudgeAct f.link percent t).1 = u) : Completes (.nudge f) s u :=
  completes_broadcast (p := .everyForm) (decode := nudgeBody f.link) h rfl rfl (by rw [hf]; rfl) ha

theorem nudgeAct_range (hn : ¬ FromShowInService f t) (hr : percent.toInt < -10 ∨ 10 < percent.toInt) :
    nudgeAct f.link percent t = (t, ⟨.range, []⟩) := by
  rw [nudgeAct, unlessTaken_free hn, s8, if_neg (by omega)]
  rfl

theorem nudgeAct_state (hn : ¬ FromShowInService f t) (h1 : -10 ≤ percent.toInt) (h2 : percent.toInt ≤ 10)
    (hs : ∀ k : SlotId, t.cue.slots[k].state ≠ .sounding) : nudgeAct f.link percent t = (t, ⟨.state, []⟩) := by
  rw [nudgeAct, unlessTaken_free hn, s8, if_pos ⟨h1, h2⟩, slotIn_none hs]
  rfl

/-- A nudge of the SOUNDING slot (01 R26). -/
theorem nudgeAct_nudges {k : SlotId} (hn : ¬ FromShowInService f t) (h1 : -10 ≤ percent.toInt)
    (h2 : percent.toInt ≤ 10) (hk : t.cue.slots[k].state = .sounding)
    (hu : ∀ j : SlotId, t.cue.slots[j].state = .sounding → j = k) :
    nudgeAct f.link percent t =
      (updSlot k (fun x => x.withAnchor (x.nudgedAnchor percent.toInt)) t, ⟨.done, []⟩) := by
  rw [nudgeAct, unlessTaken_free hn, s8, if_pos ⟨h1, h2⟩, slotIn_some hk hu]
  rfl

/-- A nudge that is refused changes nothing, whatever refuses it (09 R174). -/
theorem nudgeAct_refused (hf : f.link = .showLink)
    (h : t.sect.state = .service ∨ percent.toInt < -10 ∨ 10 < percent.toInt ∨
      ∀ k : SlotId, t.cue.slots[k].state ≠ .sounding) :
    (nudgeAct f.link percent t).1 = t := by
  by_cases hn : FromShowInService f t
  · rw [nudgeAct, unlessTaken_taken hn]
  by_cases hr : percent.toInt < -10 ∨ 10 < percent.toInt
  · rw [nudgeAct_range hn hr]
  · rw [nudgeAct_state hn (by omega) (by omega)]
    rcases h with h | h | h | h
    · exact absurd ⟨hf, h⟩ hn
    · exact absurd (.inl h) hr
    · exact absurd (.inr h) hr
    · exact h

end

theorem toAll_link {kind : Byte} {f : Frame} {s t : State} (h : OfferedToAll kind f s t) : f.link = .showLink := by
  have hb := h.2
  simp only [isBroadcast, Bool.and_eq_true, beq_iff_eq] at hb
  exact hb.1

/-- The nudge tick of a ring that holds an entry (01 R26). -/
theorem nudgeTick_eq {x : Slot} {at_ : Nat} (anchorTick : Nat)
    (h : x.ring.unplayed.head?.map Event.tick = some at_ ∨ x.ring.unplayed = [] ∧ x.ring.lastTick = some at_) :
    x.nudgeTick anchorTick = at_ := by
  unfold Slot.nudgeTick Ring.commitTick
  rcases h with h | ⟨h, hl⟩
  · rw [h]
  · rw [h, hl]
    rfl

/-- Settles O18: SYNC by its difference; NUDGE refused, of a pending anchor and of a set one. -/
theorem syncAndNudge : Obligations.SyncAndNudge := by
  unfold Obligations.SyncAndNudge
  constructor
  · intro f s t completed b5 b4 b3 b2 b1 b0 h hb hf d stepped
    have hexec := sync_exec h hb hf
    refine ⟨fun h1 h2 => ?_, fun hd => completesRaising_of ?_⟩
    · rw [syncAct_steps rfl h1 h2] at hexec
      exact hexec
    · rw [syncAct_slips rfl hd] at hexec
      exact hexec
  · intro f s t percent hf n a nudged
    refine ⟨fun h hn hr => nudge_answers h hf (nudgeAct_range hn hr),
      fun h hn h1 h2 hs => nudge_answers h hf (nudgeAct_state hn h1 h2 hs),
      fun h hr => nudge_completes h hf (nudgeAct_refused (toAll_link h) hr), fun k h1 h2 hk hu => ?_⟩
    intro x
    have nudges : ∀ u, updSlot k (fun y => y.withAnchor (y.nudgedAnchor n)) t = u →
        (Offered 0x15 f s t → ¬ FromShowInService f t → a .done [] u) ∧
        (OfferedToAll 0x15 f s t → t.sect.state ≠ .service → Completes (.nudge f) s u) := by
      rintro u rfl
      refine ⟨fun h hn => nudge_answers h hf (nudgeAct_nudges hn h1 h2 hk hu), fun h hserv => ?_⟩
      refine nudge_completes h hf ?_
      rw [nudgeAct_nudges (fun hn => hserv hn.2) h1 h2 hk hu]
    refine ⟨fun p u hp hu => nudges u ?_, fun tick time p at_ u hp hat hu => nudges u ?_⟩ <;>
      refine (updSlot_congr ?_).trans hu.symm
    · rw [Slot.nudgedAnchor, show t.cue.slots[k].anchor = _ from hp]
      rfl
    · rw [Slot.nudgedAnchor, show t.cue.slots[k].anchor = _ from hp]
      dsimp only
      rw [nudgeTick_eq tick hat]
      rfl

end Sys2Proof.Machine

namespace Sys2Proof.Machine

open Safety

/-! ### When a commit is due (01 R17, R19)

The conditions of a commit as the model looks them up, in the words of the statements. -/

theorem mappedGroup_eq_some {p : PitchMap} {q : Int} {g : GroupId} :
    mappedGroup p q = some g ↔ ∃ i, translate p q = .mapped i g := by
  unfold mappedGroup
  cases translate p q <;> simp

theorem mappedGroup_eq_none {p : PitchMap} {q : Int} :
    mappedGroup p q = none ↔ ∀ i g, translate p q ≠ .mapped i g := by
  unfold mappedGroup
  cases translate p q <;> simp

/-- The flight time of the commit time (01 R17). -/
theorem headFlight_eq (s : State) (x : Slot) (e : Event) : headFlight s.pitch x e = flightOf s x e := by
  unfold headFlight flightOf mappedGroup
  cases e.data with
  | note pitch velocity _ =>
    dsimp only
    cases translate s.pitch (pitch + x.transposition) <;> rfl
  | hold | rotor | tempo | meter | mark | ending => rfl

/-- The entries whose commit takes a place (01 R19 condition 5). -/
theorem needsPlace_iff (s : State) (x : Slot) (e : Event) : needsPlace s.pitch x e = true ↔ TakesPlace s x e := by
  unfold needsPlace TakesPlace
  cases e.data with
  | note pitch velocity _ =>
    dsimp only
    rw [Option.isSome_iff_exists]
    simp only [mappedGroup_eq_some]
    exact exists_comm
  | hold | rotor | mark | ending => exact iff_of_true rfl trivial
  | tempo | meter => exact iff_of_false Bool.false_ne_true id

theorem fireListFull_iff {s : State} : s.fireListFull = true ↔ 64 ≤ s.sched.fireList.length := by
  unfold State.fireListFull
  exact decide_eq_true_iff

/-- The lowest slot in a state (02 R28). -/
theorem slotIn_eq_some {st : SlotState} {s : State} {k : SlotId} :
    slotIn st s = some k ↔
      s.cue.slots[k].state = st ∧ ∀ j : SlotId, s.cue.slots[j].state = st → k ≤ j := by
  have hsorted : (allFin 4).Pairwise (· < ·) := by decide
  unfold slotIn
  rw [List.find?_eq_some_iff_append]
  constructor
  · rintro ⟨hk, front, behind, hl, hfront⟩
    refine ⟨by simpa using hk, fun j hj => ?_⟩
    have hmem : j ∈ front ++ k :: behind := hl ▸ List.mem_finRange j
    rw [hl, List.pairwise_append] at hsorted
    rcases List.mem_append.mp hmem with hmem | hmem
    · have := hfront j hmem
      rw [hj] at this
      simp at this
    · rcases List.mem_cons.mp hmem with rfl | hmem
      · exact Nat.le_refl _
      · exact Nat.le_of_lt (List.rel_of_pairwise_cons hsorted.2.1 hmem)
  · rintro ⟨hk, hlow⟩
    obtain ⟨front, behind, hl⟩ := List.append_of_mem (List.mem_finRange k)
    refine ⟨by simpa using hk, front, behind, hl, fun j hj => ?_⟩
    have hlt : j < k := by
      rw [show allFin 4 = front ++ k :: behind from hl, List.pairwise_append] at hsorted
      exact hsorted.2.2 j hj k List.mem_cons_self
    simpa using fun hst => absurd (hlow j hst) (Nat.not_le_of_lt hlt)

/-- Conditions 1 to 4 of a commit (01 R19). -/
theorem headDue_iff {s : State} {k : SlotId} {e : Event} :
    slotIn .sounding s = some k ∧ headDue s s.cue.slots[k] = some e ↔ HeadDue k e s := by
  rw [slotIn_eq_some, HeadDue, and_assoc]
  refine and_congr_right fun hst => and_congr_right fun _ => ?_
  unfold headDue commitTime
  rw [hst]
  cases hring : s.cue.slots[k].ring.unplayed with
  | nil => simp
  | cons d rest =>
    cases hanchor : s.cue.slots[k].anchor with
    | pending p => simp [Anchor.due]
    | set tick time tempo =>
      simp only [Anchor.due, Option.map_some, headFlight_eq]
      rw [Option.ite_none_right_eq_some, List.head?_cons, Option.some.injEq]
      constructor
      · rintro ⟨htime, rfl⟩
        exact ⟨rfl, tick, time, tempo, rfl, htime⟩
      · rintro ⟨rfl, tick', time', tempo', ha, htime⟩
        obtain ⟨rfl, rfl, rfl⟩ := Anchor.set.inj ha
        exact ⟨htime, rfl⟩

/-- The slot whose head entry may be committed: all five conditions (01 R19). -/
theorem commitReady_iff {s : State} {k : SlotId} : commitReady s = some k ↔ CommitDueIn k s := by
  have hplace : ∀ (x : Slot) (e : Event), (needsPlace s.pitch x e && s.fireListFull) = false ↔
      (TakesPlace s x e → s.sched.fireList.length < 64) := fun x e => by
    rw [Bool.and_eq_false_imp, needsPlace_iff, ← Bool.not_eq_true, fireListFull_iff, Nat.not_le]
  unfold CommitDueIn
  simp only [← headDue_iff, ← hplace]
  unfold commitReady
  constructor
  · intro h
    split at h
    · next j hj =>
      split at h
      · next e he =>
        obtain ⟨hfree, h⟩ := Option.ite_none_left_eq_some.mp h
        obtain rfl := Option.some.inj h
        exact ⟨e, ⟨hj, he⟩, by simpa using hfree⟩
      · cases h
    · cases h
  · rintro ⟨e, ⟨hk, he⟩, hfree⟩
    rw [hk]
    dsimp only
    rw [he]
    dsimp only
    rw [hfree]
    rfl

theorem commitReady_none_iff {s : State} : commitReady s = none ↔ ¬ CommitDue s := by
  unfold CommitDue
  simp only [← commitReady_iff]
  exact Option.eq_none_iff_forall_ne_some.trans not_exists.symm

/-- Condition 5 alone does not hold (01 R19, 04 R84). -/
theorem waitsOnSpace_iff {s : State} : waitsOnSpace s = true ↔ WaitsOnSpace s := by
  have hfull : ∀ (x : Slot) (e : Event), (needsPlace s.pitch x e && s.fireListFull) = true ↔
      TakesPlace s x e ∧ 64 ≤ s.sched.fireList.length := fun x e => by
    rw [Bool.and_eq_true, needsPlace_iff, fireListFull_iff]
  unfold WaitsOnSpace
  simp only [← headDue_iff, ← hfull]
  unfold waitsOnSpace
  constructor
  · intro h
    split at h
    · next k hk =>
      split at h
      · next e he => exact ⟨k, e, ⟨hk, he⟩, h⟩
      · cases h
    · cases h
  · rintro ⟨k, e, ⟨hk, he⟩, h⟩
    rw [hk]
    dsimp only
    rw [he]
    exact h

/-! ### The end of an event (01 R19, 04 R84, 08 R149) -/

/-- A commit that is due is one event (01 R19). -/
theorem execCommit_of_due {s : State} {k : SlotId} (h : CommitDueIn k s) :
    exec .commit s = .next (settle s (commitHead k s)) := by
  change execCommit s = _
  rw [execCommit, commitReady_iff.mpr h]
  rfl

/-- A COMMIT command with no commit due changes nothing (log 3). -/
theorem execCommit_of_notDue {s : State} (h : ¬ CommitDue s) : exec .commit s = .next s := by
  change execCommit s = _
  rw [execCommit, commitReady_none_iff.mpr h]

/-- Nothing was waiting on space, or none is left: the event takes no further commit (04 R84). -/
theorem commitsAfterLeaving_none {s u : State} (h : ¬ WaitsOnSpace s ∨ 64 ≤ u.sched.fireList.length ∨ ¬ CommitDue u) :
    commitsAfterLeaving s u = u := by
  rcases h with h | h | h
  · rw [← waitsOnSpace_iff, Bool.not_eq_true] at h
    rw [commitsAfterLeaving, h]
    rfl
  · rw [commitsAfterLeaving, fireListFull_iff.mpr h, Bool.not_true, Bool.and_false]
    rfl
  · exact commitsAfterLeaving_of_notReady s u (commitReady_none_iff.mpr h)

theorem commitsAfterLeaving_some {s u : State} {k : SlotId} (hw : WaitsOnSpace s)
    (hl : u.sched.fireList.length < 64) (hk : CommitDueIn k u) :
    commitsAfterLeaving s u = commitWhileReady 1023 (commitHead k u) := by
  have hfree : u.fireListFull = false := by
    rw [← Bool.not_eq_true, fireListFull_iff, Nat.not_le]
    exact hl
  rw [commitsAfterLeaving, waitsOnSpace_iff.mpr hw, hfree]
  exact commitWhileReady_of_some 1023 u k (commitReady_iff.mpr hk)

/-- Settles O5, from when a commit is due and what a COMMIT command does then. -/
theorem endOfEvent : Obligations.EndOfEvent := by
  unfold Obligations.EndOfEvent
  intro s u
  exact ⟨waitsOnSpace_iff, fun _ => commitReady_iff,
    fun n h => commitWhileReady_of_none n u (commitReady_none_iff.mpr h),
    fun n k h => commitWhileReady_of_some n u k (commitReady_iff.mpr h),
    fun _ => execCommit_of_due,
    fun h => by rw [settle, commitsAfterLeaving_none h],
    fun k hw hl hk => by rw [settle, commitsAfterLeaving_some hw hl hk],
    deliverFatal_of_clear u⟩

end Sys2Proof.Machine

namespace Sys2Proof.Machine

open Safety

/-! ### O22: freeze point, rewind and release (02 R34, 01 R6, R23) -/

/-- The acting firings of a slot (04 R66). -/
theorem actingEntry_eq_some {c : FiringKind} {e : EntryRef} :
    c.actingEntry? = some e ↔
      (∃ h on, c = .hold e h on) ∨ (∃ m target, c = .rotor e m target) ∨ (∃ n, c = .mark e n) ∨ c = .ending e := by
  cases c <;> simp [FiringKind.actingEntry?]

theorem mem_actingPlaces {s : State} {k : SlotId} {place : BitVec 8} :
    place ∈ actingPlaces k s ↔
      ∃ f ∈ s.sched.fireList, ∃ e : EntryRef, e.slot = k ∧ e.place = place ∧ f.kind.actingEntry? = some e := by
  unfold actingPlaces
  rw [List.mem_filterMap]
  refine exists_congr fun f => and_congr_right fun _ => ?_
  cases f.kind.actingEntry? with
  | none => simp
  | some e =>
    dsimp only
    rw [Option.ite_none_right_eq_some]
    constructor
    · rintro ⟨hk, hp⟩
      exact ⟨e, hk, Option.some.inj hp, rfl⟩
    · rintro ⟨e', hk, hp, he⟩
      obtain rfl := Option.some.inj he
      exact ⟨hk, congrArg some hp⟩

/-! #### The first entry that has not sounded (02 R34) -/

/-- A retained entry has sounded: its due time has come, and its firing was not withdrawn. -/
def Sounded (now : Time) (withdrawn : List (BitVec 8)) (release : BitVec 8) (i : Nat) (c : Committed) : Prop :=
  c.note.due ≤ now ∧ release + BitVec.ofNat 8 i ∉ withdrawn

theorem sounded_zero {now : Time} {withdrawn : List (BitVec 8)} {place : BitVec 8} {c : Committed} :
    Sounded now withdrawn place 0 c ↔ ¬ (now < c.note.due ∨ place ∈ withdrawn) := by
  simp [Sounded]

theorem sounded_succ {now : Time} {withdrawn : List (BitVec 8)} {place : BitVec 8} {i : Nat} {c : Committed} :
    Sounded now withdrawn place (i + 1) c ↔ Sounded now withdrawn (place + 1) i c := by
  have hplace : place + BitVec.ofNat 8 (i + 1) = place + 1 + BitVec.ofNat 8 i := by
    rw [Nat.add_comm, BitVec.ofNat_add, BitVec.add_assoc]
    rfl
  rw [Sounded, Sounded, hplace]

theorem firstUnsounded_some {now : Time} {withdrawn : List (BitVec 8)} {place : BitVec 8}
    {front behind : List Committed} {c : Committed}
    (hfront : ∀ (i : Nat) (h : i < front.length), Sounded now withdrawn place i front[i])
    (hc : ¬ Sounded now withdrawn place front.length c) :
    firstUnsounded now withdrawn place (front ++ c :: behind) = some c := by
  induction front generalizing place with
  | nil =>
    rw [List.length_nil, sounded_zero, Decidable.not_not] at hc
    exact if_pos hc
  | cons d front ih =>
    have hd : ¬ (now < d.note.due ∨ place ∈ withdrawn) := sounded_zero.mp (hfront 0 (by simp))
    rw [List.cons_append, firstUnsounded, if_neg hd]
    refine ih (fun i h => ?_) ?_
    · exact sounded_succ.mp (hfront (i + 1) (by simpa using h))
    · rwa [List.length_cons, sounded_succ] at hc

theorem firstUnsounded_none {now : Time} {withdrawn : List (BitVec 8)} {place : BitVec 8} {l : List Committed}
    (h : ∀ (i : Nat) (h : i < l.length), Sounded now withdrawn place i l[i]) :
    firstUnsounded now withdrawn place l = none := by
  induction l generalizing place with
  | nil => rfl
  | cons d l ih =>
    have hd : ¬ (now < d.note.due ∨ place ∈ withdrawn) := sounded_zero.mp (h 0 (by simp))
    rw [firstUnsounded, if_neg hd]
    exact ih fun i hi => sounded_succ.mp (h (i + 1) (by simpa using hi))

section

variable {now : Time} {withdrawn : List (BitVec 8)} {x : Slot}

/-- The freeze point with every retained entry sounded: the head entry, or the tail, or none (02 R34). -/
theorem freezeOf_allSounded (h : firstUnsounded now withdrawn x.ring.release x.ring.retained = none) :
    (∀ e rest, x.ring.unplayed = e :: rest → freezeOf now withdrawn x =
      { point := .entry, freezeTick := e.tick, resumeTick := some (e.floor x.rewindMode x.timing) }) ∧
    (∀ c, x.ring.unplayed = [] → x.ring.retained.getLast? = some c → freezeOf now withdrawn x =
      { point := .tail, freezeTick := c.event.tick, resumeTick := some (c.floor x.rewindMode) }) ∧
    (x.ring.unplayed = [] → x.ring.retained = [] → freezeOf now withdrawn x =
      { point := .none, freezeTick := 0, resumeTick := none }) := by
  rw [freezeOf, h]
  refine ⟨fun e rest hu => ?_, fun c hu hc => ?_, fun hu hr => ?_⟩
  · rw [hu]
  · rw [hu, hc]
  · rw [hu, hr]
    rfl

/-- The release floor by the oldest unsounded entry (01 R23). -/
theorem releaseFloor_unsounded {c : Committed} (h : firstUnsounded now [] x.ring.release x.ring.retained = some c) :
    releaseFloor now x = c.floor x.rewindMode := by
  rw [releaseFloor, h]

theorem releaseFloor_allSounded (h : firstUnsounded now [] x.ring.release x.ring.retained = none) :
    (∀ e rest, x.ring.unplayed = e :: rest → releaseFloor now x = e.floor x.rewindMode x.timing) ∧
    (∀ c, x.ring.unplayed = [] → x.ring.retained.getLast? = some c → releaseFloor now x = c.floor x.rewindMode) := by
  rw [releaseFloor, h]
  refine ⟨fun e rest hu => ?_, fun c hu hc => ?_⟩
  · rw [hu]
  · rw [hu, hc]

end

/-! #### Rewind (01 R6) -/

theorem rewind_none {target : Nat} {x : Slot} (h : ∀ c ∈ x.ring.retained, c.event.tick < target) :
    x.rewind target = x := by
  have hsplit : (splitAtTick target x.ring.retained).2 = [] := by
    rw [(splitAtTick_eq target _).1, ← List.append_nil x.ring.retained,
      List.dropWhile_append_of_pos (by simpa using h), List.dropWhile_nil]
  unfold Slot.rewind
  split
  · rfl
  · next hs => rw [hs] at hsplit; cases hsplit

theorem takeWhile_dropWhile_append {α : Type} {p : α → Bool} {front behind : List α} {c : α}
    (hf : ∀ a ∈ front, p a = true) (hc : p c = false) :
    (front ++ c :: behind).takeWhile p = front ∧ (front ++ c :: behind).dropWhile p = c :: behind := by
  constructor
  · rw [List.takeWhile_append_of_pos hf, List.takeWhile_cons_of_neg (by simp [hc]), List.append_nil]
  · rw [List.dropWhile_append_of_pos hf, List.dropWhile_cons_of_neg (by simp [hc])]

theorem rewind_some {target : Nat} {x : Slot} {front behind : List Committed} {c : Committed}
    (hl : x.ring.retained = front ++ c :: behind) (hf : ∀ d ∈ front, d.event.tick < target)
    (hc : target ≤ c.event.tick) :
    x.rewind target =
      { x with
        timing := c.note.before
        ring := { x.ring with
          retained := front
          unplayed := c.event :: behind.map Committed.event ++ x.ring.unplayed } } := by
  obtain ⟨htake, hdrop⟩ := takeWhile_dropWhile_append (p := fun d : Committed => d.event.tick < target)
    (behind := behind) (by simpa using hf) (by simpa using hc)
  have hsplit : splitAtTick target x.ring.retained = (front, c :: behind) := by
    rw [hl]
    exact Prod.ext ((splitAtTick_eq target _).2.trans htake) ((splitAtTick_eq target _).1.trans hdrop)
  unfold Slot.rewind
  rw [hsplit]

/-! #### Release (01 R23) -/

theorem releaseEntries_eq {now : Time} {x : Slot} {gone kept : List Committed} (hl : x.ring.retained = gone ++ kept)
    (hg : ∀ d ∈ gone, d.event.tick < releaseFloor now x)
    (hk : ∀ d, kept.head? = some d → releaseFloor now x ≤ d.event.tick) :
    x.releaseEntries now =
      { x with ring := { x.ring with
          release := x.ring.release + BitVec.ofNat 8 gone.length
          retained := kept } } := by
  have hdrop : x.ring.retained.dropWhile (fun c => c.event.tick < releaseFloor now x) = kept := by
    rw [hl, List.dropWhile_append_of_pos (by simpa using hg)]
    cases kept with
    | nil => rfl
    | cons d kept => exact List.dropWhile_cons_of_neg (by simpa using hk d rfl)
  have hlen : x.ring.retained.length - kept.length = gone.length := by
    rw [hl, List.length_append, Nat.add_sub_cancel]
  unfold Slot.releaseEntries
  dsimp only
  rw [hdrop, hlen]

/-- Settles O22: the list of the acting firings, and then freeze, rewind and release of one slot. -/
theorem freezeRewindAndRelease : Obligations.FreezeRewindAndRelease := by
  unfold Obligations.FreezeRewindAndRelease
  refine ⟨fun s k place => ?_, fun now withdrawn target x => ?_⟩
  · simp only [mem_actingPlaces, actingEntry_eq_some]
  intro r pick floorOf headFloor sounded first allSounded
  have hpick : ∀ tick beat bar, pick tick beat bar = x.rewindMode.pick tick beat bar := by
    intro tick beat bar
    show (match x.rewindMode with | .exactMode => tick | .beatMode => beat | .barMode => bar) = _
    cases x.rewindMode <;> rfl
  have hfloor : ∀ c, floorOf c = c.floor x.rewindMode := fun c => hpick _ _ _
  have hhead : ∀ e, headFloor e = e.floor x.rewindMode x.timing := fun e => hpick _ _ _
  have hfirst : ∀ {gone front c behind}, first gone front c behind →
      firstUnsounded now gone r.release r.retained = some c := by
    rintro gone front c behind ⟨hl, hf, hc⟩
    rw [hl]
    exact firstUnsounded_some hf hc
  have hall : ∀ {gone}, allSounded gone → firstUnsounded now gone r.release r.retained = none := firstUnsounded_none
  refine ⟨fun front c behind h => ?_, fun h => ⟨fun e rest hu => ?_, fun c hu hlast => ?_, fun hu hr => ?_⟩,
    rewind_none, fun front c behind hl hf hc => rewind_some hl hf hc, fun floor gone kept hl hg hk hcases => ?_⟩
  · rw [freezeOf, hfirst h, hfloor]
  · rw [(freezeOf_allSounded (hall h)).1 e rest hu, hhead]
  · rw [(freezeOf_allSounded (hall h)).2.1 c hu hlast, hfloor]
  · exact (freezeOf_allSounded (hall h)).2.2 hu hr
  · have hreleaseFloor : releaseFloor now x = floor := by
      rcases hcases with ⟨front, c, behind, hc, rfl⟩ | ⟨h, e, rest, hu, rfl⟩ | ⟨h, hu, c, hc, rfl⟩
      · rw [releaseFloor_unsounded (hfirst hc), hfloor]
      · rw [(releaseFloor_allSounded (hall h)).1 e rest hu, hhead]
      · rw [(releaseFloor_allSounded (hall h)).2 c hu hc, hfloor]
    subst hreleaseFloor
    exact releaseEntries_eq hl hg hk

end Sys2Proof.Machine

namespace Sys2Proof.Machine

open Safety

/-! ### O34 and O35: the commit of the head entry (01 R19 to R24)

One slot is SOUNDING, with a head entry and its anchor set. The commit is due by its flight time and the list's room;
then the entry's effect says how it completes: nothing placed, a firing placed, or an occurrence raised. -/

/-- With nothing to commit in any SOUNDING slot no commit is due (01 R19). -/
theorem notDue_of_nothing {s : State}
    (h : ∀ k : SlotId, s.cue.slots[k].state = .sounding →
      s.cue.slots[k].ring.unplayed = [] ∨ ∃ tempo, s.cue.slots[k].anchor = .pending tempo) : ¬ CommitDue s := by
  rintro ⟨k, e, ⟨hst, -, hhead, tick, time, tempo, hanchor, -⟩, -⟩
  rcases h k hst with hempty | ⟨p, hp⟩
  · rw [hempty] at hhead
    cases hhead
  · rw [hp] at hanchor
    cases hanchor

/-- Only the one SOUNDING slot can have a commit due (01 R19). -/
theorem commitDue_iff_of_alone {s : State} {k : SlotId}
    (hu : ∀ j : SlotId, s.cue.slots[j].state = .sounding → j = k) :
    CommitDue s ↔ CommitDueIn k s := by
  refine ⟨?_, fun h => ⟨k, h⟩⟩
  rintro ⟨j, hj⟩
  obtain rfl : j = k := by
    obtain ⟨d, hd, -⟩ := hj
    exact hu j hd.1
  exact hj

section

variable {s : State} {k : SlotId} {e : Event} {rest : List Event} {tick : Nat} {time : Time} {tempo : Nat}
  (hring : s.cue.slots[k].ring.unplayed = e :: rest) (hanchor : s.cue.slots[k].anchor = .set tick time tempo)
include hring hanchor

/-- The conditions of a commit, of the one slot that is SOUNDING (01 R17, R19). -/
theorem commitDueIn_iff_of_head (hst : s.cue.slots[k].state = .sounding)
    (hu : ∀ j : SlotId, s.cue.slots[j].state = .sounding → j = k) :
    CommitDueIn k s ↔
      time + (((e.tick : Int) - tick) * tempo).tdiv 240 - flightOf s s.cue.slots[k] e -
          (s.cue.horizonMs : Int) * 1000 ≤ (s.partTime : Int) + s.cue.syncOffset ∧
      (TakesPlace s s.cue.slots[k] e → s.sched.fireList.length < 64) := by
  constructor
  · rintro ⟨d, ⟨-, -, hhead, tick', time', tempo', ha, htime⟩, hplace⟩
    rw [hring] at hhead
    obtain rfl := Option.some.inj hhead
    obtain ⟨rfl, rfl, rfl⟩ := Anchor.set.inj (hanchor.symm.trans ha)
    exact ⟨htime, hplace⟩
  · rintro ⟨htime, hplace⟩
    have hlow : ∀ j : SlotId, s.cue.slots[j].state = .sounding → k ≤ j := fun j hj =>
      Nat.le_of_eq (congrArg Fin.val (hu j hj).symm)
    exact ⟨e, ⟨hst, hlow, by rw [hring]; rfl, tick, time, tempo, hanchor, htime⟩, hplace⟩

/-- A commit that is due, by the effect of its entry: the passing, and then the arrivals (01 R19 to R24). -/
theorem commit_completes {v : State} {outcome : CommitOutcome} {placed : Option Firing} (hdue : CommitDueIn k s)
    (he : commitEffect k e (dueAt tick time tempo e.tick) s = (v, outcome, placed))
    (hv : v.cue.slots[k].ring = s.cue.slots[k].ring) (hn : v.partTime = s.partTime) :
    ∃ u, Passes k e rest (annotationOf e (dueAt tick time tempo e.tick - s.cue.syncOffset) s.cue.slots[k].timing
        v.cue.slots[k].timing outcome) v u ∧
      Completes .commit s (arriveIfReached placed u) := by
  obtain ⟨u, hpass, hentry⟩ := commitEntry_passes he (by rw [hv, hring]) hn
  refine ⟨u, hpass, ?_⟩
  rw [Completes, execCommit_of_due hdue, commitHead_eq hring hanchor, hentry]

/-- A commit that changes the slot's own timing (01 R21). -/
theorem commit_applies {f : Slot → Slot} (hdue : CommitDueIn k s)
    (he : commitEffect k e (dueAt tick time tempo e.tick) s = (updSlot k f s, .applied, none))
    (hf : (f s.cue.slots[k]).ring = s.cue.slots[k].ring) :
    ∃ u, Completes .commit s u ∧
      Passes k e rest (annotationOf e (dueAt tick time tempo e.tick - s.cue.syncOffset) s.cue.slots[k].timing
        (f s.cue.slots[k]).timing .applied) (updSlot k f s) u := by
  have hslot : (updSlot k f s).cue.slots[k] = f s.cue.slots[k] := by rw [updSlot_cue_slots, upd_get_self]
  obtain ⟨u, hpass, hcomplete⟩ := commit_completes hring hanchor hdue he (by rw [hslot, hf]) rfl
  rw [hslot] at hpass
  exact ⟨u, hcomplete, hpass⟩

/-- A commit that raises an error places nothing (01 R20, 04 R72). -/
theorem commit_raises {v : State} {o : Occurrence} {outcome : CommitOutcome} (hdue : CommitDueIn k s)
    (he : commitEffect k e (dueAt tick time tempo e.tick) s = (raise o v, outcome, none))
    (hv : v.cue = s.cue) (hn : v.partTime = s.partTime) :
    ∃ m, Raised o v m ∧ ∃ u, Completes .commit s u ∧
      Passes k e rest (annotationOf e (dueAt tick time tempo e.tick - s.cue.syncOffset) s.cue.slots[k].timing
        s.cue.slots[k].timing outcome) { v with fault := m } u := by
  obtain ⟨m, hm, hraise⟩ := raise_spec o v
  rw [hraise] at he
  obtain ⟨u, hpass, hcomplete⟩ := commit_completes hring hanchor hdue he (by simp [hv]) hn
  refine ⟨m, hm, u, hcomplete, ?_⟩
  simpa only [hv] using hpass

/-- A commit that places a firing, which arrives in the same event when its fire time is reached (04 R73, log 11). -/
theorem commit_places {fire : Time} {kind : FiringKind} (hdue : CommitDueIn k s)
    (he : commitEffect k e (dueAt tick time tempo e.tick) s =
      (placeFiring fire kind s, .fired, some (nextFiring fire kind s))) :
    ∃ v u, Places fire kind s v ∧
      Passes k e rest (annotationOf e (dueAt tick time tempo e.tick - s.cue.syncOffset) s.cue.slots[k].timing
        s.cue.slots[k].timing .fired) v u ∧
      ((s.partTime : Int) < fire → Completes .commit s u) ∧
      (fire ≤ (s.partTime : Int) →
        ∃ w, Completes .commit s w ∧
          ArrivesInListOrder
            { number := s.sched.placementCounter + 1, fireTime := fire, state := .waiting, kind := kind } u w) := by
  obtain ⟨u, hpass, hcomplete⟩ := commit_completes hring hanchor hdue he rfl rfl
  have hlist : u.sched = (placeFiring fire kind s).sched := by rw [hpass]; rfl
  have hnow : u.now = (s.partTime : Int) := by rw [hpass]; rfl
  refine ⟨_, u, placeFiring_places fire kind s, hpass, fun hlt => ?_, fun hle => ⟨_, hcomplete, ?_⟩⟩
  · have hstays : arriveIfReached (some (nextFiring fire kind s)) u = u :=
      if_neg (by rw [hnow]; exact Int.not_le.mpr hlt)
    rwa [hstays] at hcomplete
  · refine arriveIfReached_inListOrder ?_ (by rw [hnow]; exact hle)
    obtain ⟨front, behind, -, -, -, hins⟩ := insertFiring_split (nextFiring fire kind s) s.sched.fireList
    rw [hlist]
    change _ ∈ insertFiring (nextFiring fire kind s) s.sched.fireList
    rw [hins]
    exact List.mem_append_right _ List.mem_cons_self

end

/-! #### Every kind but NOTE (01 R21, R22) -/

/-- Only a NOTE commits early by a flight time (01 R17). -/
theorem flightOf_of_not_note {s : State} {x : Slot} {e : Event}
    (h : ∀ pitch velocity cls, e.data ≠ .note pitch velocity cls) : flightOf s x e = 0 := by
  unfold flightOf
  cases he : e.data with
  | note pitch velocity cls => exact absurd he (h pitch velocity cls)
  | hold | rotor | tempo | meter | mark | ending => rfl

/-- The firing kind of an entry that acts at its due time (01 R22). -/
def ActingKind (e : Event) (ref : EntryRef) (kind : FiringKind) : Prop :=
  (∃ h on, e.data = .hold h on ∧ kind = .hold ref h on) ∨
  (∃ m target, e.data = .rotor m target ∧ kind = .rotor ref m target) ∨
  (∃ n, e.data = .mark n ∧ kind = .mark ref n) ∨ (e.data = .ending ∧ kind = .ending ref)

section

variable {e : Event} {ref : EntryRef} {kind : FiringKind} (h : ActingKind e ref kind)
include h

theorem actingKind_not_note (pitch velocity : Nat) (cls : Fin 8) : e.data ≠ .note pitch velocity cls := by
  rcases h with ⟨_, _, he, -⟩ | ⟨_, _, he, -⟩ | ⟨_, he, -⟩ | ⟨he, -⟩ <;> simp [he]

theorem actingKind_takesPlace (s : State) (x : Slot) : TakesPlace s x e := by
  unfold TakesPlace
  rcases h with ⟨_, _, he, -⟩ | ⟨_, _, he, -⟩ | ⟨_, he, -⟩ | ⟨he, -⟩ <;> simp [he]

/-- The effect of an acting entry is the placement of its firing (01 R22). -/
theorem commitEffect_acting {k : SlotId} {dueShow : Time} {s : State}
    (href : ref = { slot := k, place := s.cue.slots[k].ring.commitCursor, tick := e.tick }) :
    commitEffect k e dueShow s =
      (placeFiring (dueShow - s.cue.syncOffset) kind s, .fired,
        some (nextFiring (dueShow - s.cue.syncOffset) kind s)) := by
  subst href
  unfold commitEffect
  rcases h with ⟨_, _, he, rfl⟩ | ⟨_, _, he, rfl⟩ | ⟨_, he, rfl⟩ | ⟨he, rfl⟩ <;> rw [he] <;> rfl

end

/-- The effect of a TEMPO is the anchor at its own tick and due time (01 R21). -/
theorem commitEffect_tempo {k : SlotId} {e : Event} {dueShow : Time} {s : State} {p : Nat} (he : e.data = .tempo p) :
    commitEffect k e dueShow s = (updSlot k (.withAnchor (.set e.tick dueShow p)) s, .applied, none) := by
  unfold commitEffect
  rw [he]

/-- The effect of a METER is the bar origin and the meter (01 R21). -/
theorem commitEffect_meter {k : SlotId} {e : Event} {dueShow : Time} {s : State} {m : Nat} (he : e.data = .meter m) :
    commitEffect k e dueShow s =
      (updSlot k (fun y => { y with timing := { y.timing with barOrigin := e.tick, beatsPerBar := m } }) s,
        .applied, none) := by
  unfold commitEffect
  rw [he]

/-- Settles O34: nothing to commit; then the effect of each kind, and the two conditions that may not hold. -/
theorem commit : Obligations.Commit := by
  unfold Obligations.Commit
  refine ⟨fun s h => execCommit_of_notDue (notDue_of_nothing h), ?_⟩
  intro s k e rest tick time tempo hst hu hring hanchor x due note timed ref acting
  have hdueIn := commitDueIn_iff_of_head hring hanchor hst hu
  have hdue : (∀ pitch velocity cls, e.data ≠ .note pitch velocity cls) →
      (CommitDueIn k s ↔ timed ∧ (TakesPlace s x e → s.sched.fireList.length < 64)) := fun hn => by
    rw [hdueIn, flightOf_of_not_note hn, Int.natCast_zero, Int.sub_zero]
  have hidle : ¬ CommitDueIn k s → exec .commit s = .next s := fun h =>
    execCommit_of_notDue fun hd => h ((commitDue_iff_of_alone hu).mp hd)
  refine ⟨fun p he ht => ?_, fun m he ht => ?_, fun kind hkind ht hfree => ?_, fun hn ht => ?_,
    fun kind hkind hfull => ?_⟩
  · have hc := (hdue (by simp [he])).mpr ⟨ht, by simp [TakesPlace, he]⟩
    exact commit_applies hring hanchor hc (commitEffect_tempo he) rfl
  · have hc := (hdue (by simp [he])).mpr ⟨ht, by simp [TakesPlace, he]⟩
    exact commit_applies hring hanchor hc (commitEffect_meter he) rfl
  · have hc := (hdue (actingKind_not_note hkind)).mpr ⟨ht, fun _ => hfree⟩
    exact commit_places hring hanchor hc (commitEffect_acting hkind rfl)
  · exact hidle fun h => ht ((hdue hn).mp h).1
  · refine hidle fun h => ?_
    have := ((hdue (actingKind_not_note hkind)).mp h).2 (actingKind_takesPlace hkind s x)
    omega

/-! #### NOTE (01 R20, 04 R68, R72) -/

/-- The offer that a NOTE's commit makes to the scheduler (01 R20 step 6). -/
def noteOffer (k : SlotId) (e : Event) (pitch velocity : Nat) (cls : Fin 8) (g : GroupId) (dueShow : Time)
    (s : State) : Offer :=
  let x := s.cue.slots[k]
  let loud := effectiveVelocity velocity x.dynamics
  { entry := { slot := k, place := x.ring.commitCursor, tick := e.tick }, pitch := pitch, group := g,
    lane := laneOf s.pitch cls, velocity := loud, width := widthAt (groupCurve s.pitch g) loud,
    fireTime := dueShow - s.cue.syncOffset - flightAt (groupCurve s.pitch g) loud }

section

variable {s : State} {k : SlotId} {e : Event} {pitch velocity : Nat} {cls : Fin 8} {dueShow : Time}
  (hdata : e.data = .note pitch velocity cls)
include hdata

/-- A NOTE that maps to no group is skipped, counted, with PITCH_UNMAPPED (01 R20). -/
theorem commitEffect_unmapped (h : ∀ i g, translate s.pitch (pitch + s.cue.slots[k].transposition) ≠ .mapped i g) :
    commitEffect k e dueShow s =
      (raise (noteError .pitchUnmapped { slot := k, place := s.cue.slots[k].ring.commitCursor, tick := e.tick } pitch
          none none none)
        { s with sched.stats.skippedUnmapped := saturate 65535 (s.sched.stats.skippedUnmapped + 1) },
        .skippedUnmapped, none) := by
  unfold commitEffect
  rw [hdata]
  dsimp only
  rw [commitNote, mappedGroup_eq_none.mpr h]

theorem commitEffect_mapped {i : WindowId} {g : GroupId}
    (h : translate s.pitch (pitch + s.cue.slots[k].transposition) = .mapped i g) :
    commitEffect k e dueShow s = takeOffer (noteOffer k e pitch velocity cls g dueShow s) s := by
  unfold commitEffect
  rw [hdata]
  dsimp only
  rw [commitNote, mappedGroup_eq_some.mpr ⟨i, h⟩]
  rfl

theorem flightOf_unmapped (h : ∀ i g, translate s.pitch (pitch + s.cue.slots[k].transposition) ≠ .mapped i g) :
    flightOf s s.cue.slots[k] e = 0 := by
  rw [← headFlight_eq, headFlight, hdata]
  dsimp only
  rw [mappedGroup_eq_none.mpr h]

theorem flightOf_mapped {i : WindowId} {g : GroupId}
    (h : translate s.pitch (pitch + s.cue.slots[k].transposition) = .mapped i g) :
    flightOf s s.cue.slots[k] e =
      flightAt (groupCurve s.pitch g) (effectiveVelocity velocity s.cue.slots[k].dynamics) := by
  rw [← headFlight_eq, headFlight, hdata]
  dsimp only
  rw [mappedGroup_eq_some.mpr ⟨i, h⟩]

theorem takesPlace_note :
    TakesPlace s s.cue.slots[k] e ↔
      ∃ i g, translate s.pitch (pitch + s.cue.slots[k].transposition) = .mapped i g := by
  rw [TakesPlace, hdata]

end

/-- What the scheduler makes of an offer: late, busy or placed (04 R68, R72, R73). -/
theorem takeOffer_late {o : Offer} {s : State} (h : s.lateLimit o.lane < s.now - o.fireTime) :
    takeOffer o s = (skipLate o s, .skippedLate, none) := if_pos h

theorem takeOffer_busy {o : Offer} {s : State} (h : s.now - o.fireTime ≤ s.lateLimit o.lane)
    (hc : chooseMember s.pitch.groups[o.group] o.fireTime (candidates s s.pitch.groups[o.group]) = none) :
    takeOffer o s = (skipBusy o s, .skippedBusy, none) := by
  rw [takeOffer, if_neg (Int.not_lt.mpr h)]
  dsimp only
  rw [hc]

theorem takeOffer_placed {o : Offer} {s : State} {c : ChannelId} {fire : Time}
    (h : s.now - o.fireTime ≤ s.lateLimit o.lane)
    (hc : chooseMember s.pitch.groups[o.group] o.fireTime (candidates s s.pitch.groups[o.group]) = some (c, fire)) :
    takeOffer o s =
      let kind := .strike o.entry o.pitch o.group (shotFor c o.lane o.velocity o.width s)
      (placeFiring fire kind s, .fired, some (nextFiring fire kind s)) := by
  rw [takeOffer, if_neg (Int.not_lt.mpr h)]
  dsimp only
  rw [hc]

/-- Settles O35: unmapped; not due; and due with the scheduler's three answers to the offer. -/
theorem commitOfNote : Obligations.CommitOfNote := by
  unfold Obligations.CommitOfNote
  intro s k e rest tick time tempo pitch velocity cls hst hu hring hanchor hdata x due note
    timed ref error q passes
  have hdueIn := commitDueIn_iff_of_head hring hanchor hst hu
  have hidle : ¬ CommitDueIn k s → exec .commit s = .next s := fun h =>
    execCommit_of_notDue fun hd => h ((commitDue_iff_of_alone hu).mp hd)
  constructor
  · intro hun
    have hdue : CommitDueIn k s ↔ timed 0 := by
      rw [hdueIn, flightOf_unmapped hdata hun, takesPlace_note hdata]
      refine and_iff_left ?_
      rintro ⟨i, g, hm⟩
      exact absurd hm (hun i g)
    refine ⟨fun ht => hidle (ht ∘ hdue.mp), fun ht => ?_⟩
    exact commit_raises hring hanchor (hdue.mpr ht) (commitEffect_unmapped hdata hun) rfl rfl
  · intro i g hm group loud curve lane fire lateness
    have hdue : CommitDueIn k s ↔ timed (flightAt curve loud) ∧ s.sched.fireList.length < 64 := by
      rw [hdueIn, flightOf_mapped hdata hm, takesPlace_note hdata]
      exact and_congr_right fun _ => ⟨fun h => h ⟨i, g, hm⟩, fun h _ => h⟩
    have heffect := commitEffect_mapped (dueShow := due) hdata hm
    refine ⟨fun h => hidle fun hd => ?_, fun ht hfree => ?_⟩
    · have := hdue.mp hd
      rcases h with h | h
      · exact h this.1
      · omega
    have hd := hdue.mpr ⟨ht, hfree⟩
    refine ⟨fun hlate => ?_, fun hin hbusy => ?_, fun c at_ hin hchosen => ?_⟩
    · exact commit_raises hring hanchor hd (heffect.trans (takeOffer_late hlate)) rfl rfl
    · exact commit_raises hring hanchor hd (heffect.trans (takeOffer_busy hin hbusy)) rfl rfl
    · exact commit_places hring hanchor hd (heffect.trans (takeOffer_placed hin hchosen))

end Sys2Proof.Machine

namespace Sys2Proof.Machine

open Safety

/-! ### O2: the idle step (log 1, 2)

What is due, event by event; what the links present; and the move that is chosen among those open. -/

/-! #### What is due -/

theorem mem_whenDue {b : Bool} {c d : Instr} : c ∈ whenDue b d ↔ b = true ∧ c = d := by
  unfold whenDue
  cases b <;> simp

theorem phaseDue_iff {s : State} :
    phaseDue s = true ↔ s.partTime % 250 = 0 ∧ s.rail.lastPhaseStart ≠ some s.partTime := by
  simp [phaseDue]

theorem commitReady_isSome {s : State} : (commitReady s).isSome = true ↔ CommitDue s := by
  rw [Option.isSome_iff_exists]
  exact exists_congr fun _ => commitReady_iff

theorem firstArrival_isSome {s : State} :
    (firstArrival s).isSome = true ↔ ∃ f ∈ s.sched.fireList, f.state = .waiting ∧ f.fireTime ≤ s.now := by
  unfold firstArrival Firing.arrives
  rw [List.find?_isSome]
  simp only [not_railWaiting, Bool.and_eq_true, decide_eq_true_eq]

theorem expires_iff {f : Firing} {now : Time} : f.expires now = true ↔ ∃ t, f.state = .railWait t ∧ t ≤ now := by
  unfold Firing.expires
  cases f.state <;> simp

theorem mem_dueExpiries {s : State} {c : Instr} :
    c ∈ dueExpiries s ↔
      ∃ f ∈ s.sched.fireList, (∃ t, f.state = .railWait t ∧ t ≤ s.now) ∧ .lateExpiry f.number = c := by
  simp only [dueExpiries, List.mem_map, List.mem_filter, expires_iff, and_assoc]

theorem pulseEndDue_isSome {s : State} {k : ChannelId} :
    (pulseEndDue s k).isSome = true ↔ ∃ p, s.drive.strikes[k].state = .driving p ∧ p.endTime ≤ s.now := by
  unfold pulseEndDue
  cases s.drive.strikes[k].state <;> simp [-now_eq]

theorem recoveryDue_iff {s : State} {k : ChannelId} :
    recoveryDue s k = true ↔ s.drive.strikes[k].state = .recover ∧ s.drive.strikes[k].readyTime ≤ s.now := by
  unfold recoveryDue
  cases s.drive.strikes[k].state <;> simp [-now_eq]

theorem timerDue_isSome {now : Time} {timer : Option Time} :
    (timerDue now timer).isSome = true ↔ ∃ t, timer = some t ∧ t ≤ now := by
  unfold timerDue
  cases timer <;> simp

theorem longBreakDue_iff {s : State} :
    longBreakDue s = true ↔
      ∃ t, s.showUnit.spaceStart = some t ∧ s.showUnit.causeLatch = false ∧ t + 2000 ≤ s.now := by
  unfold longBreakDue
  cases s.showUnit.spaceStart <;> simp [-now_eq]

/-- The rate straps' code is the power of two that the rate is of 125,000 (09 Table 9.1.1). -/
theorem bitRate_eq (s : State) (l : Link) : bitRate s.settings l = lineRate s l := by
  cases l with
  | servicePort => rfl
  | showLink =>
    have hrates : ∀ r : BitVec 2, 125000 * 2 ^ r.toNat =
        if r = 0 then 125000 else if r = 1 then 250000 else if r = 2 then 500000 else 1000000 := by decide
    exact hrates s.settings.rate

theorem charsElapsed_iff {s : State} {l : Link} {chars : Nat} {since : Time} :
    charsElapsed s l chars since = true ↔
      (11000000 * chars : Nat) ≤ (s.now - since) * lineRate s l := by
  rw [charsElapsed, bitRate_eq]
  exact decide_eq_true_iff

theorem breakDue_iff {s : State} {l : Link} :
    breakDue s l = true ↔
      ∃ t, (s.unit l).spaceStart = some t ∧ (s.unit l).breakFlag = false ∧
        22000000 ≤ (s.now - t) * lineRate s l := by
  unfold breakDue
  cases (s.unit l).spaceStart with
  | none => simp
  | some t => simp [charsElapsed_iff]

theorem transmissionDone_iff {s : State} {l : Link} :
    transmissionDone s l = true ↔
      ∃ x, (s.unit l).shifter = some x ∧
        11000000 * (x.frame.body.length + 3 : Nat) ≤ (s.now - x.since) * lineRate s l := by
  unfold transmissionDone
  cases (s.unit l).shifter with
  | none => simp
  | some x => simp [charsElapsed_iff]

theorem mem_bothLinks (l : Link) : l ∈ bothLinks := by cases l <;> decide

/-- Every event that may be due, in the words of the statements. -/
theorem mem_dueEvents {s : State} {c : Instr} :
    c ∈ dueEvents s ↔
      (phaseDue s = true ∧ c = .phaseStart (ownSense s)) ∨
      ((commitReady s).isSome = true ∧ c = .commit) ∨
      ((firstArrival s).isSome = true ∧ c = .fireTimeArrival) ∨
      c ∈ dueExpiries s ∨
      (∃ k : ChannelId, ((pulseEndDue s k).isSome = true ∧ c = .pulseEnd k) ∨
        (recoveryDue s k = true ∧ c = .recoveryEnd k ((ownSense s).getLsbD k.val))) ∨
      (∃ m : RotorId, (timerDue s.now s.drive.rotors[m].timer).isSome = true ∧ c = .rampTimerExpiry m) ∨
      ((timerDue s.now s.sect.silenceTimer).isSome = true ∧ c = .pendantSilenceExpiry) ∨
      (longBreakDue s = true ∧ c = .longBreak) ∨
      (∃ l : Link, (breakDue s l = true ∧ c = .breakCondition l) ∨
        (transmissionDone s l = true ∧ c = .replyTransmissionEnd l)) := by
  simp only [dueEvents, dueOfChannel, dueOfLink, List.mem_append, List.mem_flatMap, mem_whenDue, allFin,
    List.mem_finRange, mem_bothLinks, true_and, or_assoc]

/-- What is due is what the events' rules say. -/
theorem mem_dueEvents_iff {s : State} {c : Instr} : c ∈ dueEvents s ↔ DueNow s c := by
  rw [mem_dueEvents]
  constructor
  · rintro (⟨h, rfl⟩ | ⟨h, rfl⟩ | ⟨h, rfl⟩ | h | ⟨k, ⟨h, rfl⟩ | ⟨h, rfl⟩⟩ | ⟨m, h, rfl⟩ | ⟨h, rfl⟩ | ⟨h, rfl⟩ |
      ⟨l, ⟨h, rfl⟩ | ⟨h, rfl⟩⟩)
    · obtain ⟨hphase, hlast⟩ := phaseDue_iff.mp h
      exact ⟨hphase, hlast, rfl⟩
    · exact commitReady_isSome.mp h
    · exact firstArrival_isSome.mp h
    · obtain ⟨f, hf, hexp, rfl⟩ := mem_dueExpiries.mp h
      exact ⟨f, hf, rfl, hexp⟩
    · exact pulseEndDue_isSome.mp h
    · obtain ⟨hstate, hready⟩ := recoveryDue_iff.mp h
      exact ⟨hstate, hready, rfl⟩
    · exact timerDue_isSome.mp h
    · exact timerDue_isSome.mp h
    · exact longBreakDue_iff.mp h
    · exact breakDue_iff.mp h
    · exact transmissionDone_iff.mp h
  · intro h
    cases c
    case phaseStart v =>
      obtain ⟨hphase, hlast, rfl⟩ := h
      exact .inl ⟨phaseDue_iff.mpr ⟨hphase, hlast⟩, rfl⟩
    case commit => exact .inr (.inl ⟨commitReady_isSome.mpr h, rfl⟩)
    case fireTimeArrival => exact .inr (.inr (.inl ⟨firstArrival_isSome.mpr h, rfl⟩))
    case lateExpiry n =>
      obtain ⟨f, hf, rfl, hexp⟩ := h
      exact .inr (.inr (.inr (.inl (mem_dueExpiries.mpr ⟨f, hf, hexp, rfl⟩))))
    case pulseEnd k =>
      exact .inr (.inr (.inr (.inr (.inl ⟨k, .inl ⟨pulseEndDue_isSome.mpr h, rfl⟩⟩))))
    case recoveryEnd k v =>
      obtain ⟨hstate, hready, rfl⟩ := h
      exact .inr (.inr (.inr (.inr (.inl ⟨k, .inr ⟨recoveryDue_iff.mpr ⟨hstate, hready⟩, rfl⟩⟩))))
    case rampTimerExpiry m =>
      exact .inr (.inr (.inr (.inr (.inr (.inl ⟨m, timerDue_isSome.mpr h, rfl⟩)))))
    case pendantSilenceExpiry =>
      exact .inr (.inr (.inr (.inr (.inr (.inr (.inl ⟨timerDue_isSome.mpr h, rfl⟩))))))
    case longBreak =>
      exact .inr (.inr (.inr (.inr (.inr (.inr (.inr (.inl ⟨longBreakDue_iff.mpr h, rfl⟩)))))))
    case breakCondition l =>
      exact .inr (.inr (.inr (.inr (.inr (.inr (.inr (.inr ⟨l, .inl ⟨breakDue_iff.mpr h, rfl⟩⟩)))))))
    case replyTransmissionEnd l =>
      exact .inr (.inr (.inr (.inr (.inr (.inr (.inr (.inr ⟨l, .inr ⟨transmissionDone_iff.mpr h, rfl⟩⟩)))))))
    all_goals exact h.elim

/-! #### What the links present -/

theorem eq_ofNat_of_toNat_eq {b : Byte} {n : Nat} (h : b.toNat = n) : b = BitVec.ofNat 8 n := by
  rw [← h, BitVec.ofNat_toNat, BitVec.setWidth_eq]

/-- A frame's command has that frame (10 Table 10.2.1). -/
theorem commandOf_request (kind : Byte) (f : Frame) (noCurrent : Bool) :
    (commandOf kind f noCurrent).request? = some (kind, f) := by
  unfold commandOf
  split
  case h_60 => rfl
  all_goals next h => rw [eq_ofNat_of_toNat_eq h]; rfl

/-- The command is an UNKNOWN REQUEST. -/
def isUnknown : Instr → Bool
  | .unknownRequest _ _ => true
  | _ => false

theorem commandOf_all_known (f : Frame) (noCurrent : Bool) :
    (requestKinds.all fun kind => !isUnknown (commandOf kind f noCurrent)) = true := rfl

/-- A kind byte of the table is no UNKNOWN REQUEST. -/
theorem commandOf_known {kind : Byte} (h : kind ∈ requestKinds) {f g : Frame} {noCurrent : Bool} {k : Byte} :
    commandOf kind f noCurrent ≠ .unknownRequest k g := by
  intro hc
  have hknown := List.all_eq_true.mp (commandOf_all_known f noCurrent) kind h
  rw [hc] at hknown
  cases hknown

theorem commandOf_sense {kind : Byte} {f g : Frame} {noCurrent v : Bool}
    (h : commandOf kind f noCurrent = .setChannel g v) : v = noCurrent := by
  unfold commandOf at h
  split at h
  all_goals cases h
  rfl

/-- The command is the only one with its frame and kind byte, but for the sense result of SET CHANNEL. -/
theorem commandOf_of_request {c : Instr} {kind : Byte} {f : Frame} {noCurrent : Bool}
    (h : c.request? = some (kind, f)) (hk : ∀ k g, c = .unknownRequest k g → k ∉ requestKinds)
    (hv : ∀ g v, c = .setChannel g v → v = noCurrent) : commandOf kind f noCurrent = c := by
  cases c
  case unknownRequest k g =>
    cases h
    have hn := hk kind f rfl
    unfold commandOf
    split
    case h_60 => rfl
    all_goals next h => rw [eq_ofNat_of_toNat_eq h] at hn; exact absurd (by decide) hn
  case setChannel g v => cases h; rw [hv f v rfl]; rfl
  all_goals cases h
  all_goals rfl

theorem commandOf_iff {c : Instr} {kind : Byte} {f : Frame} {noCurrent : Bool} :
    commandOf kind f noCurrent = c ↔
      c.request? = some (kind, f) ∧ (∀ k g, c = .unknownRequest k g → k ∉ requestKinds) ∧
      ∀ g v, c = .setChannel g v → v = noCurrent := by
  refine ⟨?_, fun ⟨h, hk, hv⟩ => commandOf_of_request h hk hv⟩
  rintro rfl
  refine ⟨commandOf_request kind f noCurrent, fun k g hc hmem => ?_, fun g v hc => commandOf_sense hc⟩
  have hkind := commandOf_request kind f noCurrent
  rw [hc] at hkind
  cases hkind
  exact commandOf_known hmem hc

theorem presentedCommand_eq_some {s : State} {l : Link} {noCurrent : Bool} {c : Instr} :
    presentedCommand s l noCurrent = some c ↔
      ∃ (b : BufferedFrame) (rest : List BufferedFrame) (kind tag : Byte) (fields : List Byte),
        (s.unit l).buffers = b :: rest ∧ b.body = kind :: tag :: fields ∧
        commandOf kind { link := l, address := b.address, tag := tag, fields := fields } noCurrent = c := by
  unfold presentedCommand
  constructor
  · intro h
    split at h
    · next a kind tag fields done rest hb => exact ⟨_, rest, kind, tag, fields, hb, rfl, Option.some.inj h⟩
    · cases h
  · rintro ⟨⟨a, body, done⟩, rest, kind, tag, fields, hb, rfl, rfl⟩
    rw [hb]

/-- What the links present is the request of each link's oldest frame. -/
theorem mem_presentedCommands_iff {s : State} {c : Instr} : c ∈ presentedCommands s ↔ PresentedNow s c := by
  unfold presentedCommands PresentedNow
  rw [List.mem_filterMap]
  simp only [mem_bothLinks, true_and, presentedCommand_eq_some, commandOf_iff]
  rfl

/-! #### The move that is chosen -/

theorem mem_openMoves_take {s : State} {c : Instr} :
    .take c ∈ openMoves s ↔ c ∈ dueEvents s ++ presentedCommands s := by
  unfold openMoves
  rw [List.mem_append, List.mem_map]
  constructor
  · rintro (⟨d, hd, h⟩ | h)
    · exact Move.take.inj h ▸ hd
    · split at h <;> simp at h
  · exact fun h => .inl ⟨c, h, rfl⟩

theorem mem_openMoves_pass {s : State} : .pass ∈ openMoves s ↔ mayPass s = true := by
  unfold openMoves
  rw [List.mem_append, List.mem_map]
  constructor
  · rintro (⟨d, -, h⟩ | h)
    · cases h
    · split at h
      · assumption
      · cases h
  · exact fun h => .inr (by rw [if_pos h]; exact List.mem_singleton_self _)

/-- The move chosen is one of those open, if there is one (log 2). -/
theorem chosenMove_mem {s : State} (h : openMoves s ≠ []) : chosenMove s ∈ openMoves s := by
  unfold chosenMove
  split
  · contradiction
  · next hm => rw [hm]; exact List.mem_singleton_self _
  · next m rest _ hm =>
    have hlt := Nat.mod_lt (Config.moveChoice s.freeCount) (Nat.zero_lt_succ rest.length)
    rw [hm, List.getD_eq_getElem?_getD, List.getElem?_eq_getElem hlt, Option.getD_some]
    exact List.getElem_mem _

theorem step_idle {s : State} (hp : s.pending = []) : step s = idle s := by
  unfold step
  split
  · next h => rw [hp] at h; cases h
  · rfl

theorem step_of_take {s : State} {c : Instr} (hp : s.pending = []) (h : chosenMove s = .take c) :
    step s = exec c { s with freeCount := s.freeCount + 1 } := by
  rw [step_idle hp, idle, h]
  rfl

theorem step_of_pass {s : State} (hp : s.pending = []) (h : chosenMove s = .pass) :
    step s = .next (passTime (if (openMoves s).length ≤ 1 then s else countFree s)) := by
  rw [step_idle hp, idle, h]

/-- Every frame that is presented is before its deadline when time may pass (09 R173). -/
theorem beforeDeadline_of_notOverdue {s : State} (h : requestOverdue s = false) {l : Link} {b : BufferedFrame}
    {rest : List BufferedFrame} {kind tag : Byte} {fields : List Byte} (hb : (s.unit l).buffers = b :: rest)
    (hbody : b.body = kind :: tag :: fields) : BeforeDeadline s l := by
  have hpresented := presentedCommand_eq_some (noCurrent := false).mpr ⟨b, rest, kind, tag, fields, hb, hbody, rfl⟩
  have hl := List.any_eq_false.mp h l (mem_bothLinks l)
  rw [hpresented] at hl
  unfold BeforeDeadline
  cases ht : (s.unit l).presentedAt with
  | none => simp [ht] at hl
  | some t => exact ⟨t, rfl, (by simpa [ht, -now_eq] using hl : s.now < t + 200)⟩

/-- With nothing presented no request is overdue. -/
theorem requestOverdue_of_none {s : State} (h : presentedCommands s = []) : requestOverdue s = false := by
  rw [requestOverdue, List.any_eq_false]
  intro l hl hover
  obtain ⟨c, hc⟩ := Option.isSome_iff_exists.mp (Bool.and_eq_true_iff.mp hover).1
  obtain ⟨b, rest, kind, tag, fields, hb, hbody, -⟩ := presentedCommand_eq_some.mp hc
  have hmem : _ ∈ presentedCommands s := List.mem_filterMap.mpr
    ⟨l, hl, presentedCommand_eq_some.mpr ⟨b, rest, kind, tag, fields, hb, hbody, rfl⟩⟩
  exact List.not_mem_nil (h ▸ hmem)

/-- Settles O2: what is due and presented, and then the move that is chosen. -/
theorem idleStep : Obligations.IdleStep := by
  unfold Obligations.IdleStep
  intro s hp
  refine ⟨fun _ => mem_dueEvents_iff, fun _ => mem_presentedCommands_iff, fun hd hr => ?_, fun hd => ?_,
    fun hd hr => ?_⟩
  · have hmoves : openMoves s = [.pass] := by
      simp [openMoves, mayPass, hd, hr, requestOverdue_of_none hr]
    have hpass : chosenMove s = .pass := by rw [chosenMove, hmoves]
    rw [step_of_pass hp hpass, hmoves]
    rfl
  · have hopen : openMoves s ≠ [] := by simp [openMoves, hd]
    have hmem := chosenMove_mem hopen
    cases hm : chosenMove s with
    | take c => exact ⟨c, mem_openMoves_take.mp (hm ▸ hmem), step_of_take hp hm⟩
    | pass =>
      have := mem_openMoves_pass.mp (hm ▸ hmem)
      simp [mayPass, hd] at this
  · have hopen : openMoves s ≠ [] := by simp [openMoves, hr]
    have hmem := chosenMove_mem hopen
    cases hm : chosenMove s with
    | take c =>
      have hc := mem_openMoves_take.mp (hm ▸ hmem)
      rw [hd] at hc
      exact .inl ⟨c, hc, step_of_take hp hm⟩
    | pass =>
      have hmay := mem_openMoves_pass.mp (hm ▸ hmem)
      have hover : requestOverdue s = false := by simpa [mayPass, hd] using hmay
      refine .inr ⟨fun l b rest kind tag fields hb hbody => beforeDeadline_of_notOverdue hover hb hbody, ?_⟩
      have hmany : ¬ (openMoves s).length ≤ 1 := by
        have := List.length_pos_iff.mpr hr
        simp [openMoves, hd, hmay]
        omega
      rw [step_of_pass hp hm, if_neg hmany]
      rfl

end Sys2Proof.Machine

namespace Sys2Proof.Machine

open Safety

/-! ### The encodings of 10 R180 and R185

Each form as the number that its bytes hold. -/

@[simp] theorem toNat_byteOf (n : Nat) : (byteOf n).toNat = n % 256 := BitVec.toNat_ofNat n 8

theorem sends_byte (n : Nat) : Sends 1 (n % 256) [byteOf n] := ⟨rfl, by simp [numberOf]⟩

theorem sends_be16 (n : Nat) : Sends 2 (n % 65536) (be16 n) := by
  refine ⟨rfl, ?_⟩
  simp only [be16, numberOf, List.foldl_cons, List.foldl_nil, toNat_byteOf]
  omega

theorem sends_be24 (n : Nat) : Sends 3 (n % 16777216) (be24 n) := by
  refine ⟨rfl, ?_⟩
  simp only [be24, be16, numberOf, List.foldl_cons, List.foldl_nil, toNat_byteOf]
  omega

theorem sends_be32 (n : Nat) : Sends 4 (n % 4294967296) (be32 n) := by
  refine ⟨rfl, ?_⟩
  simp only [be32, be16, numberOf, List.cons_append, List.nil_append, List.foldl_cons, List.foldl_nil, toNat_byteOf]
  omega

/-- Numbers read, most significant byte first (10 R180). -/
theorem reads_numberOf (a b c d e f : Byte) :
    u16 a b = numberOf [a, b] ∧ u24 a b c = numberOf [a, b, c] ∧ u32 a b c d = numberOf [a, b, c, d] ∧
      u48 a b c d e f = numberOf [a, b, c, d, e, f] := by
  simp only [u48, u32, u24, u16, numberOf, List.foldl_cons, List.foldl_nil]
  omega

theorem sendsSigned_signedByte {i : Int} (h1 : -128 ≤ i) (h2 : i < 128) : SendsSigned 1 i [signedByte i] := by
  refine ⟨rfl, ?_⟩
  have hb : ((signedByte i).toNat : Int) = i % 256 := by
    rw [signedByte, BitVec.toNat_ofInt]
    omega
  simp only [numberOf, List.foldl_cons, List.foldl_nil]
  split <;> omega

/-- Six bytes hold the word they are cut from. -/
theorem sends_bytes48 (v : BitVec 48) : Sends 6 v.toNat (bytes48 v) := by
  have hv := v.isLt
  refine ⟨rfl, ?_⟩
  simp only [bytes48, numberOf, List.foldl_cons, List.foldl_nil, BitVec.extractLsb'_toNat, Nat.shiftRight_eq_div_pow]
  omega

/-- A part time in six bytes, or a free value (10 R180, log 7). -/
theorem partTime48_sends (t : Int) :
    (0 ≤ t ∧ t < 2 ^ 48 → Sends 6 t.toNat (partTime48 t)) ∧
    (t < 0 ∨ 2 ^ 48 ≤ t → Sends 6 (Config.unencodableTime t).toNat (partTime48 t)) := by
  constructor <;> intro h
  · have hin : 0 ≤ t ∧ t < 281474976710656 := by omega
    have hword : (BitVec.ofInt 48 t).toNat = t.toNat := by
      rw [BitVec.toNat_ofInt]
      omega
    rw [← hword, show partTime48 t = bytes48 (BitVec.ofInt 48 t) from congrArg bytes48 (if_pos hin)]
    exact sends_bytes48 _
  · have hout : ¬ (0 ≤ t ∧ t < 281474976710656) := by omega
    rw [show partTime48 t = bytes48 (Config.unencodableTime t) from congrArg bytes48 (if_neg hout)]
    exact sends_bytes48 _

/-- A show time in six bytes, or a free value (10 R180, log 7). -/
theorem signed48_sends (t : Int) :
    (-2 ^ 47 ≤ t ∧ t < 2 ^ 47 → SendsSigned 6 t (signed48 t)) ∧
    (t < -2 ^ 47 ∨ 2 ^ 47 ≤ t → Sends 6 (Config.unencodableTime t).toNat (signed48 t)) := by
  constructor <;> intro h
  · have hin : -140737488355328 ≤ t ∧ t < 140737488355328 := by omega
    have hword : ((BitVec.ofInt 48 t).toNat : Int) = if t < 0 then t + 256 ^ 6 else t := by
      rw [BitVec.toNat_ofInt]
      split <;> omega
    rw [show signed48 t = bytes48 (BitVec.ofInt 48 t) from congrArg bytes48 (if_pos hin)]
    obtain ⟨hlength, hnumber⟩ := sends_bytes48 (BitVec.ofInt 48 t)
    exact ⟨hlength, by rw [hnumber, hword]⟩
  · have hout : ¬ (-140737488355328 ≤ t ∧ t < 140737488355328) := by omega
    rw [show signed48 t = bytes48 (Config.unencodableTime t) from congrArg bytes48 (if_neg hout)]
    exact sends_bytes48 _

/-- A flag byte's number has the flags as its bits (10 R185). -/
theorem testBit_flags (bits : List Bool) (i : Nat) :
    (bits.foldr (fun (b : Bool) n => b.toNat + 2 * n) 0).testBit i = bits.getD i false := by
  induction bits generalizing i with
  | nil => simp
  | cons b bits ih =>
    rw [List.foldr_cons]
    cases i with
    | zero => cases b <;> simp [Nat.testBit_zero]
    | succ i =>
      have hhalf : ∀ n, (b.toNat + 2 * n) / 2 = n := fun n => by have := b.toNat_le; omega
      rw [Nat.testBit_succ, hhalf, ih, List.getD_cons_succ]

theorem getLsbD_flagByte (bits : List Bool) {i : Nat} (h : i < 8) :
    (flagByte bits).getLsbD i = bits.getD i false := by
  rw [flagByte, byteOf, BitVec.getLsbD_ofNat, testBit_flags, decide_eq_true h, Bool.true_and]

/-- The encodings that the statements of the reading requests speak of. -/
theorem encodesNumbers : EncodesNumbers :=
  ⟨fun n => ⟨sends_byte n, sends_be16 n, sends_be24 n, sends_be32 n⟩, reads_numberOf, fun _ i => sends_byte i.val,
    fun _ => sendsSigned_signedByte,
    fun t => ⟨(partTime48_sends t).1, (partTime48_sends t).2, (signed48_sends t).1, (signed48_sends t).2⟩, rfl, rfl,
    fun bits _ => getLsbD_flagByte bits⟩

end Sys2Proof.Machine

namespace Sys2Proof.Machine

open Safety

/-! ### O24: READ CUE, READ STACK and READ STATE (01 R12, 02 R46, 07 R145)

Each reply's data as the model lays them out, in the words of the statement; the requests then answer those. -/

theorem recordOf_eq (e : Event) : e.bytes = recordOf e := by
  unfold Event.bytes recordOf
  cases e.data <;> rfl

/-! #### READ CUE (10 Tables 10.2.3 and 10.3.5) -/

theorem releaseTick_eq (r : Ring) : r.releaseTick = (ringTicks r).head? := by
  unfold Ring.releaseTick ringTicks
  cases r.retained <;> cases r.unplayed <;> rfl

/-- The anchor's flag and bytes, in the words of the statement. -/
def anchorParts : Anchor → Bool × List Byte
  | .set tick time tempo => (true, be32 tick ++ signed48 time ++ be24 tempo)
  | .pending tempo => (false, be32 0 ++ signed48 0 ++ be24 tempo)

theorem cueSummary_eq (x : Slot) :
    cueSummary x =
      [x.state.code, byteOf x.priority, x.rewindMode.code] ++ be16 x.leadInMs ++
        [byteOf x.lowWater, signedByte x.transposition, byteOf x.dynamics] ++
        be16 (x.ring.retained.length + x.ring.unplayed.length) ++ be16 x.ring.unplayed.length ++
        [boolByte x.ring.closed,
          flagByte [(anchorParts x.anchor).1, (ringTicks x.ring).head?.isSome,
            (x.ring.unplayed.head?.map Event.tick).isSome, (ringTicks x.ring).getLast?.isSome]] ++
        (anchorParts x.anchor).2 ++ timingData x.timing ++
        be32 ((ringTicks x.ring).head?.getD 0) ++ be32 ((x.ring.unplayed.head?.map Event.tick).getD 0) ++
        be32 ((ringTicks x.ring).getLast?.getD 0) := by
  rw [← releaseTick_eq, ← lastTick_eq, cueSummary]
  cases x.anchor <;> rfl

section

variable {r : Ring} {i : Nat}

theorem entry_retained {c : Committed} (h : r.retained[i]? = some c) : r.entry i = some (c.event, some c.note) := by
  obtain ⟨hi, rfl⟩ := List.getElem?_eq_some_iff.mp h
  rw [Ring.entry, List.getElem?_append_left (by simpa using hi), List.getElem?_map, h]
  rfl

theorem entry_unplayed {e : Event} (hi : r.retained.length ≤ i) (h : r.unplayed[i - r.retained.length]? = some e) :
    r.entry i = some (e, none) := by
  rw [Ring.entry, List.getElem?_append_right (by simpa using hi), List.length_map, List.getElem?_map, h]
  rfl

theorem entry_none (h : r.retained.length + r.unplayed.length ≤ i) : r.entry i = none := by
  rw [Ring.entry, List.getElem?_eq_none]
  simpa using h

end

theorem entryData_committed (index : Byte) (e : Event) (a : Annotation) :
    entryData index e (some a) =
      [index] ++ recordOf e ++ [1] ++ partTime48 a.due ++ be32 a.beatStart ++ be32 a.barStart ++
        timingData a.before ++ [a.outcome.code] := by
  rw [entryData, recordOf_eq]
  simp [annotationData]

/-- An entry with no annotation: 21 bytes of absent items at 0, and two at FFh (log 25). -/
theorem entryData_unplayed (index : Byte) (e : Event) :
    entryData index e none = [index] ++ recordOf e ++ [0] ++ List.replicate 21 0 ++ [0xFF, 0xFF] := by
  have habsent : annotationData none = [0] ++ List.replicate 21 0 ++ [0xFF, 0xFF] := by decide
  rw [entryData, recordOf_eq, habsent]
  simp

section

variable {f : Frame} {s t : State} {slot index : Byte} {code : ReplyCode} {data : List Byte}

theorem readCue_answers (h : Offered 0x12 f s t) (hf : f.fields = [slot])
    (ha : readCueSummary slot t = (t, ⟨code, data⟩)) : Answers 0x12 (.readCue f) f s code data t :=
  answers_addressed (decode := readCueBody) h rfl (addressed_allows h) (by rw [hf]; rfl) ha

theorem readCueEntry_answers (h : Offered 0x12 f s t) (hf : f.fields = [slot, index])
    (ha : readCueEntry slot index t = (t, ⟨code, data⟩)) : Answers 0x12 (.readCue f) f s code data t :=
  answers_addressed (decode := readCueBody) h rfl (addressed_allows h) (by rw [hf]; rfl) ha

theorem readCueSummary_range (h : 3 < slot.toNat) : readCueSummary slot t = (t, ⟨.range, []⟩) := by
  rw [readCueSummary, toFin_none h]
  rfl

theorem readCueSummary_eq {k : SlotId} (h : slot.toNat = k.val) :
    readCueSummary slot t = (t, ⟨.done, cueSummary t.cue.slots[k]⟩) := by
  rw [readCueSummary, toFin_eq h]
  rfl

theorem readCueEntry_range (h : 3 < slot.toNat) : readCueEntry slot index t = (t, ⟨.range, []⟩) := by
  rw [readCueEntry, toFin_none h]
  rfl

theorem readCueEntry_none {k : SlotId} (h : slot.toNat = k.val) (he : t.cue.slots[k].ring.entry index.toNat = none) :
    readCueEntry slot index t = (t, ⟨.range, []⟩) := by
  rw [readCueEntry, toFin_eq h]
  dsimp only
  rw [he]
  rfl

theorem readCueEntry_some {k : SlotId} {e : Event} {note : Option Annotation} (h : slot.toNat = k.val)
    (he : t.cue.slots[k].ring.entry index.toNat = some (e, note)) :
    readCueEntry slot index t = (t, ⟨.done, entryData index e note⟩) := by
  rw [readCueEntry, toFin_eq h]
  dsimp only
  rw [he]
  rfl

end

/-! #### READ STACK (10 Tables 10.3.1 and 10.3.2) -/

/-- The bytes of the summary behind the role holder's. -/
def stackLists (s : State) : List Byte :=
  [byteOf s.arb.stack.length, byteOf s.arb.waiting.length] ++
    s.arb.waiting.flatMap (waitingData s) ++ be32 s.arb.startSequence.toNat

theorem holdsRole_of_paused {x : Slot} (h : x.state = .paused) : holdsRole x = true := by
  rw [holdsRole, h]
  rfl

section

variable {s : State} {k : SlotId}

theorem stackSummary_free (h : RoleFree s) :
    stackSummary s =
      [byteOf s.arb.baseMask, byteOf s.arb.baseMask, 0xFF, 0xFF, 0xFF] ++ be32 0 ++ be32 0 ++ stackLists s := by
  have hpause : pauseOf s = none := by
    have hnone : slotIn .paused s = none := slotIn_none fun k hk => by
      exact Bool.false_ne_true ((h k).symm.trans (holdsRole_of_paused hk))
    rw [pauseOf, hnone]
  rw [stackSummary, effectiveMask, roleHolder_none h, hpause]
  simp [stackLists, pauseTicks, optByte, absent]

variable (h : HoldsRoleAlone k s)
include h

theorem stackSummary_held :
    stackSummary s =
      [byteOf s.arb.baseMask, byteOf s.cue.slots[k].priority, finByte k, s.cue.slots[k].state.code] ++
        [optByte (fun p => p.point.code) (pauseOf s)] ++ pauseTicks (pauseOf s) ++ stackLists s := by
  rw [stackSummary, effectiveMask, roleHolder_some h]
  simp [stackLists, optByte]

theorem pauseOf_sounding (hst : s.cue.slots[k].state = .sounding) : pauseOf s = none := by
  have hnone : slotIn .paused s = none := slotIn_none fun j hj => by
    obtain rfl := h.2 j (holdsRole_of_paused hj)
    rw [hst] at hj
    cases hj
  rw [pauseOf, hnone]

theorem pauseOf_paused (hst : s.cue.slots[k].state = .paused) : pauseOf s = s.cue.slots[k].pause := by
  rw [pauseOf, slotIn_some hst fun j hj => h.2 j (holdsRole_of_paused hj)]

end

theorem contextData_eq (r : ContextRecord) :
    contextData r =
      [finByte r.slot, r.freeze.point.code] ++ be32 r.freeze.freezeTick ++ be32 (r.freeze.resumeTick.getD 0) ++
        timingData r.timing ++ [signedByte r.transposition, byteOf r.dynamics, flagByte r.holds.toList] ++
        [byteOf r.rotorTargets[0], byteOf r.rotorTargets[1], byteOf r.savedMask] := by
  have htargets : r.rotorTargets.toList = [r.rotorTargets[0], r.rotorTargets[1]] := by
    obtain ⟨⟨l⟩, hl⟩ := r.rotorTargets
    match l, hl with
    | [_, _], _ => rfl
  rw [contextData, htargets]
  simp [optTick]

section

variable {f : Frame} {s t : State} {position : Byte} {data : List Byte} {code : ReplyCode}

theorem readStack_answers (h : Offered 0x27 f s t) (hf : f.fields = []) (hd : stackSummary t = data) :
    Answers 0x27 (.readStack f) f s .done data t :=
  answers_addressed (decode := readStackBody) (act := readStackSummary) h rfl (addressed_allows h) (by rw [hf]; rfl)
    (by rw [← hd]; rfl)

theorem readStackAt_answers (h : Offered 0x27 f s t) (hf : f.fields = [position])
    (ha : readStackAt position t = (t, ⟨code, data⟩)) : Answers 0x27 (.readStack f) f s code data t :=
  answers_addressed (decode := readStackBody) h rfl (addressed_allows h) (by rw [hf]; rfl) ha

theorem readStackAt_range (h : 2 < position.toNat) : readStackAt position t = (t, ⟨.range, []⟩) :=
  if_neg (Nat.not_le.mpr h)

theorem readStackAt_eq (h : position.toNat ≤ 2) :
    readStackAt position t = (t, ⟨.done, stackPosition t position⟩) := if_pos h

end

/-! #### READ STATE (10 Table 10.3.5) -/

theorem toList_four {α : Type} (v : Vector α 4) : v.toList = [v[0], v[1], v[2], v[3]] := by
  obtain ⟨⟨l⟩, hl⟩ := v
  match l, hl with
  | [_, _, _, _], _ => rfl

theorem stateData_eq (s : State) :
    stateData s =
      [s.sect.state.code, if s.sect.state = .hushing then s.sect.hushTarget.code else 0xFF,
        boolByte s.sect.haltPending, s.sect.takeover.code, boolByte s.sect.breakHush,
        boolByte (s.sect.silenceTimer ≠ none)] ++ partTime48 (s.sect.silenceTimer.getD 0) ++
        [s.cue.slots[0].state.code, s.cue.slots[1].state.code, s.cue.slots[2].state.code,
          s.cue.slots[3].state.code, byteOf s.sched.fireList.length,
          flagByte [s.rail.rails[0].near, s.rail.rails[0].latch, s.rail.rails[1].near, s.rail.rails[1].latch,
            s.rail.rails[2].near, s.rail.rails[2].latch, s.rail.rails[3].near, s.rail.rails[3].latch]] ++
        partTime48 s.partTime ++ signed48 (s.partTime + s.cue.syncOffset) := by
  have htimer : s.sect.silenceTimer.isSome = decide (s.sect.silenceTimer ≠ none) := by
    cases s.sect.silenceTimer <;> rfl
  rw [stateData, railFlags, toList_four, toList_four, htimer]
  rfl

theorem readState_answers {f : Frame} {s t : State} {data : List Byte} (h : Offered 0x70 f s t) (hf : f.fields = [])
    (hd : stateData t = data) : Answers 0x70 (.readState f) f s .done data t :=
  answers_addressed (decode := readStateBody) (act := fun s => (s, .done (stateData s))) h rfl (addressed_allows h)
    (by rw [hf]; rfl) (by rw [← hd]; rfl)

/-- Settles O24: the encodings and codes, and then the data of each reply. -/
theorem readCueStackAndState : Obligations.ReadCueStackAndState := by
  unfold Obligations.ReadCueStackAndState
  refine ⟨encodesNumbers, rfl, rfl, rfl, rfl, rfl, rfl, rfl, fun f s t => ?_⟩
  intro timing
  refine ⟨fun slot h hf => ⟨fun hr => readCue_answers h hf (readCueSummary_range hr), fun k hk => ?_⟩,
    fun slot index h hf => ⟨fun hr => readCueEntry_answers h hf (readCueEntry_range hr),
      fun k hk => ⟨fun hi => ?_, fun c hc => ?_, fun e hi he => ?_⟩⟩,
    fun h hf => ⟨fun hrole => ?_, fun k hrole => ⟨fun hst => ?_, fun p hst hp => ?_⟩⟩,
    fun position h hf => ⟨fun hr => ?_, fun hr hnone => ?_, fun r hr hsome => ?_⟩, fun h hf => ?_⟩
  · refine readCue_answers h hf ((readCueSummary_eq hk).trans ?_)
    rw [cueSummary_eq]
    cases t.cue.slots[k].anchor <;> rfl
  · exact readCueEntry_answers h hf (readCueEntry_none hk (entry_none hi))
  · have ha := readCueEntry_answers h hf (readCueEntry_some hk (entry_retained hc))
    rwa [entryData_committed] at ha
  · have ha := readCueEntry_answers h hf (readCueEntry_some hk (entry_unplayed hi he))
    rwa [entryData_unplayed] at ha
  · exact readStack_answers h hf (stackSummary_free hrole)
  · refine readStack_answers h hf ?_
    rw [stackSummary_held hrole, pauseOf_sounding hrole hst]
    rfl
  · refine readStack_answers h hf ?_
    rw [stackSummary_held hrole, pauseOf_paused hrole hst, show t.cue.slots[k].pause = some p from hp]
    simp only [optByte, pauseTicks, optTick, List.append_assoc]
    rfl
  · exact readStackAt_answers h hf (readStackAt_range hr)
  · refine readStackAt_answers h hf ((readStackAt_eq hr).trans ?_)
    rw [stackPosition, hnone]
    rfl
  · refine readStackAt_answers h hf ((readStackAt_eq hr).trans ?_)
    rw [stackPosition, hsome]
    dsimp only
    rw [contextData_eq]
    simp only [List.append_assoc]
    rfl
  · exact readState_answers h hf (stateData_eq t)

end Sys2Proof.Machine

namespace Sys2Proof.Machine

open Safety

/-! ### O59: the sounding role, the stack and the waiting set (02 R28, R32, R36, 04 R67, 07 R130)

`ArbiterLaw` is the four laws together. A change that touches none of what they speak of is `RolesWithin`. The changes
that hand the role over pass through a state in which it is free and the fire list is empty (`RoleOpen`), and taking
the role there leads back to the laws. -/

/-- The laws of O59 together. -/
structure ArbiterLaw (s : State) : Prop where
  role : RoleLaw s
  halt : HaltPendingPlaced s
  stack : StackNamesSuspended s
  waiting : WaitingSetNamesWaiting s

theorem holdsRole_iff (x : Slot) : holdsRole x = true ↔ x.state = .sounding ∨ x.state = .paused := by
  simp [holdsRole]

theorem holdsRole_ne {x : Slot} {st : SlotState} (h : holdsRole x = true) (hst : st ≠ .sounding ∧ st ≠ .paused) :
    x.state ≠ st := by
  rintro rfl
  exact ((holdsRole_iff x).mp h).elim hst.1 hst.2

theorem roleFree_iff (s : State) :
    RoleFree s ↔ ∀ k : SlotId, s.cue.slots[k].state ≠ .sounding ∧ s.cue.slots[k].state ≠ .paused := by
  simp [RoleFree, holdsRole]

/-! #### Changes of one slot's state -/

/-- Slot `k` turns to a state, and the other slots stay in theirs. -/
def Turns (k : SlotId) (st : SlotState) (s t : State) : Prop :=
  ∀ j : SlotId, t.cue.slots[j].state = if j = k then st else s.cue.slots[j].state

section

variable {k : SlotId} {st : SlotState} {s t u : State}

theorem Turns.self (h : Turns k st s t) : t.cue.slots[k].state = st := (h k).trans (if_pos rfl)

theorem Turns.other (h : Turns k st s t) {j : SlotId} (hj : j ≠ k) : t.cue.slots[j].state = s.cue.slots[j].state :=
  (h j).trans (if_neg hj)

theorem Turns.of_slots (h : Turns k st s t) (hu : u.cue.slots = t.cue.slots) : Turns k st s u := by
  intro j; rw [hu]; exact h j

theorem updSlot_turns {f : Slot → Slot} (h : (f s.cue.slots[k]).state = st) : Turns k st s (updSlot k f s) := by
  intro j
  rw [updSlot_cue_slots, upd_get]
  by_cases hj : j = k
  · subst hj; rw [if_pos rfl, if_pos rfl, h]
  · rw [if_neg hj, if_neg (Ne.symm hj)]

/-- The slots in a state that slot `k` neither leaves nor enters are the same. -/
theorem Turns.iff_of_ne (h : Turns k st s t) {x : SlotState} (hnew : st ≠ x) (hold : s.cue.slots[k].state ≠ x)
    (j : SlotId) : t.cue.slots[j].state = x ↔ s.cue.slots[j].state = x := by
  by_cases hj : j = k
  · subst hj; exact iff_of_false (h.self ▸ hnew) hold
  · rw [h.other hj]

/-- Slot `k` turns to a state without the role, and no other slot holds it: the role is free. -/
theorem Turns.roleFree (h : Turns k st s t) (hst : st ≠ .sounding ∧ st ≠ .paused)
    (ho : ∀ j : SlotId, j ≠ k → s.cue.slots[j].state ≠ .sounding ∧ s.cue.slots[j].state ≠ .paused) : RoleFree t := by
  rw [roleFree_iff]
  intro j
  by_cases hj : j = k
  · subst hj; rw [h.self]; exact hst
  · rw [h.other hj]; exact ho j hj

end

/-! #### A list that names the slots in a state -/

/-- The list names the slots in a state, each once: the form of `StackNamesSuspended` and `WaitingSetNamesWaiting`. -/
def Names (l : List SlotId) (st : SlotState) (s : State) : Prop :=
  l.Nodup ∧ ∀ k : SlotId, s.cue.slots[k].state = st ↔ k ∈ l

theorem stackNames_iff (s : State) :
    StackNamesSuspended s ↔ Names (s.arb.stack.map ContextRecord.slot) .suspended s := Iff.rfl

theorem waitingNames_iff (s : State) :
    WaitingSetNamesWaiting s ↔ Names (s.arb.waiting.map WaitingEntry.slot) .waiting s := Iff.rfl

section

variable {l m : List SlotId} {st new : SlotState} {k : SlotId} {s t : State}

theorem Names.of_states (h : Names l st s) (ht : ∀ k : SlotId, t.cue.slots[k].state = s.cue.slots[k].state) :
    Names l st t := ⟨h.1, fun k => by rw [ht k]; exact h.2 k⟩

/-- A slot enters the state and, anywhere in the list, the list. -/
theorem Names.enter (h : Names l st s) (ht : Turns k st s t) (hk : s.cue.slots[k].state ≠ st) (hm : m.Perm (k :: l)) :
    Names m st t := by
  refine ⟨hm.nodup_iff.mpr (List.nodup_cons.mpr ⟨fun hl => hk ((h.2 k).mpr hl), h.1⟩), fun j => ?_⟩
  rw [hm.mem_iff, List.mem_cons]
  by_cases hj : j = k
  · subst hj; exact iff_of_true ht.self (.inl rfl)
  · rw [ht.other hj, h.2 j]; exact ⟨.inr, fun hor => hor.resolve_left hj⟩

/-- A slot leaves the state, if it was in it, and the list. -/
theorem Names.leave (h : Names l st s) (ht : Turns k new s t) (hnew : new ≠ st) :
    Names (l.filter fun j => j != k) st t := by
  refine ⟨h.1.filter _, fun j => ?_⟩
  rw [List.mem_filter, bne_iff_ne]
  by_cases hj : j = k
  · subst hj; exact iff_of_false (ht.self ▸ hnew) fun hmem => hmem.2 rfl
  · rw [ht.other hj, h.2 j]; exact ⟨fun hmem => ⟨hmem, hj⟩, And.left⟩

/-- A slot that the list does not name turns to another state. -/
theorem Names.of_turns (h : Names l st s) (ht : Turns k new s t) (hnew : new ≠ st) (hk : s.cue.slots[k].state ≠ st) :
    Names l st t := ⟨h.1, fun j => (ht.iff_of_ne hnew hk j).trans (h.2 j)⟩

/-- The slot at the head leaves the state and the list. -/
theorem Names.leave_head (h : Names (k :: l) st s) (ht : Turns k new s t) (hnew : new ≠ st) : Names l st t := by
  have hk : k ∉ l := (List.nodup_cons.mp h.1).1
  have hl : ((k :: l).filter fun j => j != k) = l := by
    rw [List.filter_cons_of_neg (by simp)]
    exact List.filter_eq_self.mpr fun j hj => bne_iff_ne.mpr fun e => hk (e ▸ hj)
  exact hl ▸ h.leave ht hnew

end

/-! #### Firings and the role -/

/-- A firing of this source may be in the fire list (04 R67). -/
def MayPlan (source : Source) (s : State) : Prop :=
  match source with
  | .slot k => s.cue.slots[k].state = .sounding
  | .test => s.sect.state = .service

theorem firings_iff (s : State) :
    FiringsOfSounding s ∧ TestsInService s ↔ ∀ f ∈ s.sched.fireList, MayPlan f.kind.source s := by
  constructor
  · rintro ⟨hslot, htest⟩ f hf
    cases hsrc : f.kind.source with
    | slot k => exact hslot f hf k hsrc
    | test => exact htest f hf hsrc
  · intro h
    refine ⟨fun f hf k hsrc => ?_, fun f hf hsrc => ?_⟩ <;>
    · have hmay := h f hf
      rw [hsrc] at hmay
      exact hmay

theorem roleLaw_iff (s : State) :
    RoleLaw s ↔ OneRole s ∧ SectionAgrees s ∧ ∀ f ∈ s.sched.fireList, MayPlan f.kind.source s := by
  rw [RoleLaw, firings_iff]

section

variable {s : State} {k : SlotId}

theorem ArbiterLaw.mayPlan (h : ArbiterLaw s) {f : Firing} (hf : f ∈ s.sched.fireList) : MayPlan f.kind.source s :=
  ((roleLaw_iff s).mp h.role).2.2 f hf

/-- The section tells that the role is free (02 R28). -/
theorem ArbiterLaw.free (h : ArbiterLaw s) (hplay : s.sect.state ≠ .playing) (hpause : s.sect.state ≠ .paused) :
    RoleFree s := by
  obtain ⟨-, ⟨hsounding, hpaused⟩, -⟩ := h.role
  rw [roleFree_iff]
  exact fun k => ⟨fun hk => hplay (hsounding.mpr ⟨k, hk⟩), fun hk => hpause (hpaused.mpr ⟨k, hk⟩)⟩

theorem ArbiterLaw.playing (h : ArbiterLaw s) (hk : s.cue.slots[k].state = .sounding) : s.sect.state = .playing := by
  obtain ⟨-, ⟨hsounding, -⟩, -⟩ := h.role
  exact hsounding.mpr ⟨k, hk⟩

theorem ArbiterLaw.paused (h : ArbiterLaw s) (hk : s.cue.slots[k].state = .paused) : s.sect.state = .paused := by
  obtain ⟨-, ⟨-, hpaused⟩, -⟩ := h.role
  exact hpaused.mpr ⟨k, hk⟩

theorem ArbiterLaw.section_of_role (h : ArbiterLaw s) (hk : holdsRole s.cue.slots[k] = true) :
    s.sect.state = .playing ∨ s.sect.state = .paused :=
  ((holdsRole_iff _).mp hk).imp h.playing h.paused

theorem ArbiterLaw.halt_of_role (h : ArbiterLaw s) (hk : holdsRole s.cue.slots[k] = true) :
    s.sect.haltPending = false :=
  h.halt (.inr (h.section_of_role hk))

/-- The other slots do not hold the role (02 R28). -/
theorem ArbiterLaw.others (h : ArbiterLaw s) (hk : holdsRole s.cue.slots[k] = true) (j : SlotId) (hj : j ≠ k) :
    s.cue.slots[j].state ≠ .sounding ∧ s.cue.slots[j].state ≠ .paused := by
  rw [← not_or, ← holdsRole_iff]
  exact fun hrole => hj (h.role.1 j k hrole hk)

/-- While a slot holds the role every firing is of that slot, and it is SOUNDING (04 R67). -/
theorem ArbiterLaw.firing_of_role (h : ArbiterLaw s) (hk : holdsRole s.cue.slots[k] = true) {f : Firing}
    (hf : f ∈ s.sched.fireList) : f.kind.source = .slot k ∧ s.cue.slots[k].state = .sounding := by
  have hmay := h.mayPlan hf
  cases hsrc : f.kind.source with
  | slot j =>
    rw [hsrc] at hmay
    obtain rfl : j = k := h.role.1 j k ((holdsRole_iff _).mpr (.inl hmay)) hk
    exact ⟨rfl, hmay⟩
  | test =>
    rw [hsrc] at hmay
    rcases h.section_of_role hk with hs | hs <;> exact absurd (hs.symm.trans hmay) (by decide)

/-- With the role free and no TEST firing the fire list is empty (04 R67). -/
theorem ArbiterLaw.noFirings (h : ArbiterLaw s) (hfree : RoleFree s)
    (htest : s.sect.state = .service → ∀ f ∈ s.sched.fireList, f.kind.source ≠ .test) : s.sched.fireList = [] := by
  refine List.eq_nil_iff_forall_not_mem.mpr fun f hf => ?_
  have hmay := h.mayPlan hf
  cases hsrc : f.kind.source with
  | slot j => rw [hsrc] at hmay; exact ((roleFree_iff s).mp hfree j).1 hmay
  | test => rw [hsrc] at hmay; exact htest hmay f hf hsrc

/-- The role law where the same slots are SOUNDING and PAUSED, and no firing has come in of a new source. -/
theorem roleLaw_congr {t : State} (h : RoleLaw s)
    (hsounding : ∀ k : SlotId, t.cue.slots[k].state = .sounding ↔ s.cue.slots[k].state = .sounding)
    (hpaused : ∀ k : SlotId, t.cue.slots[k].state = .paused ↔ s.cue.slots[k].state = .paused)
    (hsect : t.sect.state = s.sect.state)
    (hf : ∀ f ∈ t.sched.fireList, ∃ g ∈ s.sched.fireList, g.kind.source = f.kind.source) : RoleLaw t := by
  obtain ⟨hone, hagrees, hslot, htest⟩ := h
  have hrole : ∀ k : SlotId, holdsRole t.cue.slots[k] = true → holdsRole s.cue.slots[k] = true := fun k => by
    rw [holdsRole_iff, holdsRole_iff, hsounding, hpaused]
    exact id
  refine ⟨fun j k hj hk => hone j k (hrole j hj) (hrole k hk), ?_, fun f hmem k hsrc => ?_, fun f hmem hsrc => ?_⟩
  · simp only [SectionAgrees, hsounding, hpaused, hsect]
    exact hagrees
  · obtain ⟨g, hg, he⟩ := hf f hmem
    exact (hsounding k).mpr (hslot g hg k (he.trans hsrc))
  · obtain ⟨g, hg, he⟩ := hf f hmem
    exact hsect.trans (htest g hg (he.trans hsrc))

/-- The role law where the role is free. -/
theorem roleLaw_of_free (hfree : RoleFree s) (hplay : s.sect.state ≠ .playing) (hpause : s.sect.state ≠ .paused)
    (hf : ∀ f ∈ s.sched.fireList, MayPlan f.kind.source s) : RoleLaw s := by
  refine (roleLaw_iff s).mpr ⟨fun j _ hj => ?_, ⟨iff_of_false hplay ?_, iff_of_false hpause ?_⟩, hf⟩
  · rw [hfree j] at hj; cases hj
  · rintro ⟨k, hk⟩; exact ((roleFree_iff s).mp hfree k).1 hk
  · rintro ⟨k, hk⟩; exact ((roleFree_iff s).mp hfree k).2 hk

/-- The role law where slot `k` alone holds the role and the section is in the state that its own state gives. -/
theorem roleLaw_of_holder
    (hk : s.cue.slots[k].state = .sounding ∧ s.sect.state = .playing ∨
      s.cue.slots[k].state = .paused ∧ s.sect.state = .paused)
    (ho : ∀ j : SlotId, j ≠ k → s.cue.slots[j].state ≠ .sounding ∧ s.cue.slots[j].state ≠ .paused)
    (hf : s.sched.fireList = []) : RoleLaw s := by
  have alone : ∀ j : SlotId, s.cue.slots[j].state = .sounding ∨ s.cue.slots[j].state = .paused → j = k := fun j hj => by
    refine Decidable.byContradiction fun hne => ?_
    exact hj.elim (ho j hne).1 (ho j hne).2
  refine (roleLaw_iff s).mpr ⟨fun i j hi hj => ?_, ?_, by rw [hf]; simp⟩
  · rw [alone i ((holdsRole_iff _).mp hi), alone j ((holdsRole_iff _).mp hj)]
  · rcases hk with ⟨hk, hs⟩ | ⟨hk, hs⟩
    · refine ⟨iff_of_true hs ⟨k, hk⟩, iff_of_false (by rw [hs]; decide) ?_⟩
      rintro ⟨j, hj⟩
      rw [alone j (.inr hj), hk] at hj
      cases hj
    · refine ⟨iff_of_false (by rw [hs]; decide) ?_, iff_of_true hs ⟨k, hk⟩⟩
      rintro ⟨j, hj⟩
      rw [alone j (.inl hj), hk] at hj
      cases hj

end

/-! #### Changes that the laws do not speak of -/

/-- Nothing that the laws speak of is changed, but that firings may have left the fire list. -/
structure RolesWithin (s t : State) : Prop where
  states : ∀ k : SlotId, t.cue.slots[k].state = s.cue.slots[k].state
  stack : t.arb.stack.map ContextRecord.slot = s.arb.stack.map ContextRecord.slot
  waiting : t.arb.waiting = s.arb.waiting
  section_ : t.sect.state = s.sect.state
  halt : t.sect.haltPending = s.sect.haltPending
  firings : ∀ f ∈ t.sched.fireList, ∃ g ∈ s.sched.fireList, g.kind.source = f.kind.source

section

variable {s t u : State}

theorem RolesWithin.trans (h : RolesWithin s t) (g : RolesWithin t u) : RolesWithin s u where
  states k := (g.states k).trans (h.states k)
  stack := g.stack.trans h.stack
  waiting := g.waiting.trans h.waiting
  section_ := g.section_.trans h.section_
  halt := g.halt.trans h.halt
  firings f hf := by
    obtain ⟨f', hf', e'⟩ := g.firings f hf
    obtain ⟨f'', hf'', e''⟩ := h.firings f' hf'
    exact ⟨f'', hf'', e''.trans e'⟩

/-- The blocks that the laws speak of are the same, but that firings may have left. -/
theorem RolesWithin.of_blocks (hcue : t.cue = s.cue) (harb : t.arb = s.arb) (hsect : t.sect = s.sect)
    (hlist : ∀ f ∈ t.sched.fireList, f ∈ s.sched.fireList) : RolesWithin s t where
  states k := by rw [hcue]
  stack := by rw [harb]
  waiting := by rw [harb]
  section_ := by rw [hsect]
  halt := by rw [hsect]
  firings f hf := ⟨f, hlist f hf, rfl⟩

theorem RolesWithin.of_same (hcue : t.cue = s.cue) (harb : t.arb = s.arb) (hsect : t.sect = s.sect)
    (hlist : t.sched.fireList = s.sched.fireList) : RolesWithin s t :=
  .of_blocks hcue harb hsect fun _ hf => hlist ▸ hf

theorem RolesWithin.refl (s : State) : RolesWithin s s := .of_same rfl rfl rfl rfl

theorem RolesWithin.of_calm (h : Calm s t) : RolesWithin s t where
  states k := by rewrite [h.slots]; rfl
  stack := h.stack
  waiting := h.waiting
  section_ := h.state
  halt := h.halt
  firings f hf := ⟨f, h.fireList ▸ hf, rfl⟩

theorem ArbiterLaw.within (hs : ArbiterLaw s) (h : RolesWithin s t) : ArbiterLaw t where
  role := roleLaw_congr hs.role (fun k => by rw [h.states k]) (fun k => by rw [h.states k]) h.section_ h.firings
  halt := by
    rw [HaltPendingPlaced, h.section_, h.halt]
    exact hs.halt
  stack := by
    rw [stackNames_iff, h.stack]
    exact Names.of_states hs.stack h.states
  waiting := by
    rw [waitingNames_iff, h.waiting]
    exact Names.of_states hs.waiting h.states

theorem updSlot_rolesWithin {k : SlotId} {f : Slot → Slot} (h : ∀ x, (f x).state = x.state) :
    RolesWithin s (updSlot k f s) where
  states j := by
    rw [updSlot_cue_slots, upd_get]
    split
    · exact h _
    · rfl
  stack := rfl
  waiting := rfl
  section_ := rfl
  halt := rfl
  firings f hf := ⟨f, hf, rfl⟩

theorem foldl_rolesWithin {α : Type} {f : State → α → State} (hf : ∀ t a, RolesWithin t (f t a)) (l : List α)
    (s : State) : RolesWithin s (l.foldl f s) := by
  induction l generalizing s with
  | nil => exact .refl s
  | cons a l ih => exact (hf s a).trans (ih _)

theorem setFlag_rolesWithin (f : AttentionFlag) (s : State) : RolesWithin s (setFlag f s) := .of_calm (calm_setFlag f s)

theorem raise_rolesWithin (o : Occurrence) (s : State) : RolesWithin s (raise o s) := .of_calm (calm_raise o s)

theorem removeFiring_rolesWithin (f : Firing) (s : State) : RolesWithin s (removeFiring f s) :=
  .of_blocks rfl rfl rfl fun _ => List.mem_of_mem_erase

end

/-! #### The role free, taken and handed on -/

/-- The role is free and nothing is planned, while an event hands the role on: the section may still tell of the slot
that held it. -/
structure RoleOpen (s : State) : Prop where
  free : RoleFree s
  noFirings : s.sched.fireList = []
  halt : s.sect.haltPending = false
  stack : StackNamesSuspended s
  waiting : WaitingSetNamesWaiting s

section

variable {s t : State} {k : SlotId} {st : SlotState}

theorem ArbiterLaw.roleOpen (h : ArbiterLaw s) (hq : s.sect.state = .quiet) : RoleOpen s := by
  have hfree : RoleFree s := h.free (by rw [hq]; decide) (by rw [hq]; decide)
  exact ⟨hfree, h.noFirings hfree fun hs => absurd (hq.symm.trans hs) (by decide), h.halt (.inl hq), h.stack, h.waiting⟩

/-- A slot turns to hold the role alone, and the section to the state that agrees with it. -/
theorem arbiterLaw_of_holder (ht : Turns k st s t)
    (hst : st = .sounding ∧ t.sect.state = .playing ∨ st = .paused ∧ t.sect.state = .paused)
    (ho : ∀ j : SlotId, j ≠ k → s.cue.slots[j].state ≠ .sounding ∧ s.cue.slots[j].state ≠ .paused)
    (hlist : t.sched.fireList = []) (hhalt : t.sect.haltPending = false) (hstack : StackNamesSuspended t)
    (hwaiting : WaitingSetNamesWaiting t) : ArbiterLaw t where
  role := by
    refine roleLaw_of_holder (k := k) ?_ (fun j hj => ?_) hlist
    · rw [ht.self]; exact hst
    · rw [ht.other hj]; exact ho j hj
  halt := fun _ => hhalt
  stack := hstack
  waiting := hwaiting

/-- Slot `k` takes the free role. -/
theorem RoleOpen.taken (h : RoleOpen s) (ht : Turns k .sounding s t)
    (hsect : t.sect = { s.sect with state := .playing }) (hlist : t.sched = s.sched) (hstack : StackNamesSuspended t)
    (hwaiting : WaitingSetNamesWaiting t) : ArbiterLaw t :=
  arbiterLaw_of_holder ht (.inl ⟨rfl, by rw [hsect]⟩) (fun j _ => (roleFree_iff s).mp h.free j)
    (by rw [hlist, h.noFirings]) (by rw [hsect]; exact h.halt) hstack hwaiting

/-- A slot that does not hold the role turns to a state that does not. -/
theorem ArbiterLaw.turned (h : ArbiterLaw s) (ht : Turns k st s t)
    (hold : s.cue.slots[k].state ≠ .sounding ∧ s.cue.slots[k].state ≠ .paused) (hnew : st ≠ .sounding ∧ st ≠ .paused)
    (hsect : t.sect = s.sect) (hlist : ∀ f ∈ t.sched.fireList, f ∈ s.sched.fireList) (hstack : StackNamesSuspended t)
    (hwaiting : WaitingSetNamesWaiting t) : ArbiterLaw t where
  role := roleLaw_congr h.role (ht.iff_of_ne hnew.1 hold.1) (ht.iff_of_ne hnew.2 hold.2) (by rw [hsect])
    fun f hf => ⟨f, hlist f hf, rfl⟩
  halt := by rw [HaltPendingPlaced, hsect]; exact h.halt
  stack := hstack
  waiting := hwaiting

end

/-! #### Starting and resuming -/

section

variable {k : SlotId} {s : State}

theorem sound_turns (k : SlotId) (s : State) : Turns k .sounding s (sound k s) := by
  rw [sound, noticeLow_eq]
  exact (updSlot_turns rfl).of_slots rfl

theorem sound_sect (k : SlotId) (s : State) : (sound k s).sect = { s.sect with state := .playing } := by
  rw [sound, noticeLow_eq]
  rfl

theorem startSlot_turns (k : SlotId) (s : State) : Turns k .sounding s (startSlot k s) := by
  have e : startSlot k s = _ := startSlot_starts k s
  rw [e]
  exact (updSlot_turns rfl).of_slots rfl

theorem startSlot_sect (k : SlotId) (s : State) : (startSlot k s).sect = { s.sect with state := .playing } :=
  congrArg State.sect (startSlot_starts k s)

theorem startSlot_stack (k : SlotId) (s : State) : (startSlot k s).arb.stack = s.arb.stack :=
  congrArg (·.arb.stack) (startSlot_starts k s)

/-- The slots of the waiting set without one slot. -/
theorem waitingSlots_filter (k : SlotId) (l : List WaitingEntry) :
    (l.filter fun w => w.slot != k).map WaitingEntry.slot = (l.map WaitingEntry.slot).filter fun j => j != k := by
  rw [List.filter_map]
  rfl

theorem startSlot_waiting (k : SlotId) (s : State) :
    (startSlot k s).arb.waiting.map WaitingEntry.slot = (s.arb.waiting.map WaitingEntry.slot).filter fun j => j != k :=
  (congrArg (·.arb.waiting.map WaitingEntry.slot) (startSlot_starts k s)).trans (waitingSlots_filter k _)

/-- A slot that is not SUSPENDED starts (02 R31). -/
theorem RoleOpen.start (h : RoleOpen s) (hk : s.cue.slots[k].state ≠ .suspended) : ArbiterLaw (startSlot k s) := by
  have ht := startSlot_turns k s
  refine h.taken ht (startSlot_sect k s) (by simp) ?_ ?_
  · rw [stackNames_iff, startSlot_stack]
    exact Names.of_turns h.stack ht (by decide) hk
  · rw [waitingNames_iff, startSlot_waiting]
    exact Names.leave h.waiting ht (by decide)

/-- The best waiting cue is WAITING (02 R32). -/
theorem RoleOpen.bestWaiting (h : RoleOpen s) (hk : BestWaiting k s) : s.cue.slots[k].state = .waiting := by
  obtain ⟨front, w, behind, hl, rfl, -⟩ := hk
  obtain ⟨-, hwaiting⟩ := h.waiting
  refine (hwaiting w.slot).mpr ?_
  rw [hl]
  exact List.mem_map_of_mem (by simp)

theorem RoleOpen.start_qualifier {mask : Nat} (h : RoleOpen s) (hk : qualifier mask s = some k) :
    ArbiterLaw (startSlot k s) := by
  refine h.start ?_
  rw [h.bestWaiting (qualifier_some hk).1]
  decide

theorem resume_turns (r : ContextRecord) (rest : List ContextRecord) (s : State) :
    Turns r.slot .sounding s (resume r rest s) := by
  obtain ⟨-, -, e⟩ := resume_resumes r rest s
  exact (updSlot_turns rfl).of_slots (congrArg (·.cue.slots) e)

/-- The top cue of the stack resumes (02 R37). -/
theorem RoleOpen.resume {r : ContextRecord} {rest : List ContextRecord} (h : RoleOpen s)
    (hs : s.arb.stack = r :: rest) : ArbiterLaw (resume r rest s) := by
  obtain ⟨-, -, e⟩ := resume_resumes r rest s
  have ht := resume_turns r rest s
  have hstack : (Machine.resume r rest s).arb.stack = rest := congrArg (·.arb.stack) e
  have hwaiting : (Machine.resume r rest s).arb.waiting = s.arb.waiting := congrArg (·.arb.waiting) e
  have hnames : Names (r.slot :: rest.map ContextRecord.slot) .suspended s := by
    have := h.stack
    rwa [stackNames_iff, hs] at this
  have hsuspended : s.cue.slots[r.slot].state = .suspended := (hnames.2 r.slot).mpr List.mem_cons_self
  refine h.taken ht (congrArg State.sect e) (by simp) ?_ ?_
  · rw [stackNames_iff, hstack]
    exact hnames.leave_head ht (by decide)
  · rw [waitingNames_iff, hwaiting]
    exact Names.of_turns h.waiting ht (by decide) (by rw [hsuspended]; decide)

/-- The free role is handed on: to the best waiting cue, to the top of the stack, or to none (02 R35). -/
theorem RoleOpen.handOn (h : RoleOpen s) : ArbiterLaw (handOn s) := by
  unfold Machine.handOn
  split
  · next r rest hs =>
    split
    · next k hk => exact h.start_qualifier hk
    · exact h.resume hs
  · split
    · next k hk => exact h.start_qualifier hk
    · exact ⟨roleLaw_of_free h.free (by simp) (by simp) (by simp [h.noFirings]), fun _ => h.halt, h.stack, h.waiting⟩

end

/-! #### Withdrawing, emptying, preempting -/

section

variable {k : SlotId} {s : State}

theorem emptied_state (x : Slot) : x.emptied.state = .empty := by
  unfold Slot.emptied
  split
  · next h => exact h
  all_goals rfl

theorem rewind_state (target : Nat) (x : Slot) : (x.rewind target).state = x.state := by
  unfold Slot.rewind
  split <;> rfl

theorem rewindToFreeze_state (p : PauseRecord) (x : Slot) : (x.rewindToFreeze p).state = x.state := by
  unfold Slot.rewindToFreeze
  split
  · exact rewind_state _ x
  · rfl
  · rfl

theorem withdraw_rolesWithin (k : SlotId) (s : State) : RolesWithin s (withdraw k s) :=
  .of_blocks rfl rfl rfl fun _ hf => (List.mem_filter.mp hf).1

/-- The withdrawal of the role's holder leaves nothing planned (04 R67, R82). -/
theorem ArbiterLaw.withdraw_noFirings (h : ArbiterLaw s) (hk : holdsRole s.cue.slots[k] = true) :
    (withdraw k s).sched.fireList = [] := by
  refine List.filter_eq_nil_iff.mpr fun f hf => ?_
  rw [(h.firing_of_role hk hf).1]
  simp

theorem emptySlot_turns (k : SlotId) (s : State) : Turns k .empty s (emptySlot k s) :=
  updSlot_turns (s := withdraw k s) (emptied_state _)

/-- Emptying the role's holder frees the role. -/
theorem ArbiterLaw.emptySlot_roleOpen (h : ArbiterLaw s) (hk : holdsRole s.cue.slots[k] = true) :
    RoleOpen (emptySlot k s) := by
  have ht := emptySlot_turns k s
  refine ⟨ht.roleFree (by decide) (h.others hk), h.withdraw_noFirings hk, h.halt_of_role hk, ?_, ?_⟩
  · exact Names.of_turns h.stack ht (by decide) (holdsRole_ne hk (by decide))
  · exact Names.of_turns h.waiting ht (by decide) (holdsRole_ne hk (by decide))

theorem freezeSounding_rolesWithin (k : SlotId) (s : State) : RolesWithin s (freezeSounding k s).2 :=
  (withdraw_rolesWithin k s).trans (updSlot_rolesWithin fun x => rewindToFreeze_state _ x)

theorem freezeOccupant_rolesWithin (k : SlotId) (s : State) : RolesWithin s (freezeOccupant k s).2 := by
  unfold freezeOccupant
  split
  · exact .refl s
  · exact freezeSounding_rolesWithin k s

theorem ArbiterLaw.freezeOccupant_noFirings (h : ArbiterLaw s) (hk : holdsRole s.cue.slots[k] = true) :
    (freezeOccupant k s).2.sched.fireList = [] := by
  unfold freezeOccupant
  split
  · next hp _ =>
    refine List.eq_nil_iff_forall_not_mem.mpr fun f hf => ?_
    have hst := (h.firing_of_role hk hf).2
    rw [hp] at hst
    cases hst
  · exact h.withdraw_noFirings hk

theorem preempt_turns (k : SlotId) (s : State) : Turns k .suspended s (preempt k s) := by
  intro j
  rw [← (freezeOccupant_rolesWithin k s).states j]
  exact updSlot_turns (s := (freezeOccupant k s).2) (f := Slot.suspended) rfl j

/-- The preempted slot is on top of the stack (02 R33, R36). -/
theorem preempt_stack (k : SlotId) (s : State) :
    (preempt k s).arb.stack.map ContextRecord.slot = k :: s.arb.stack.map ContextRecord.slot :=
  congrArg (k :: ·) (freezeOccupant_rolesWithin k s).stack

theorem preempt_waiting (k : SlotId) (s : State) : (preempt k s).arb.waiting = s.arb.waiting :=
  (freezeOccupant_rolesWithin k s).waiting

/-- Preempting the role's holder frees the role (02 R33). -/
theorem ArbiterLaw.preempt_roleOpen (h : ArbiterLaw s) (hk : holdsRole s.cue.slots[k] = true) :
    RoleOpen (preempt k s) := by
  have ht := preempt_turns k s
  have hsect : (preempt k s).sect = s.sect := by simp
  refine ⟨ht.roleFree (by decide) (h.others hk), h.freezeOccupant_noFirings hk, ?_, ?_, ?_⟩
  · rw [hsect]
    exact h.halt_of_role hk
  · refine Names.enter h.stack ht (holdsRole_ne hk (by decide)) ?_
    rw [preempt_stack]
  · rw [waitingNames_iff, preempt_waiting]
    exact Names.of_turns h.waiting ht (by decide) (holdsRole_ne hk (by decide))

end

/-! #### The requests of the arbiter -/

section

variable {k : SlotId} {s : State}

theorem ArbiterLaw.dropSlot (h : ArbiterLaw s) (k : SlotId) : ArbiterLaw (dropSlot k s) := by
  obtain ⟨hempty, hloaded, hwaiting, hsuspended, hrole⟩ := dropSlot_eq k s
  have ht := emptySlot_turns k s
  have hlist : ∀ f ∈ (emptySlot k s).sched.fireList, f ∈ s.sched.fireList := fun _ hf => (List.mem_filter.mp hf).1
  cases hst : s.cue.slots[k].state with
  | empty => rwa [hempty hst]
  | loaded =>
    rw [hloaded hst]
    exact h.turned ht (by rw [hst]; decide) (by decide) rfl hlist
      (Names.of_turns h.stack ht (by decide) (by rw [hst]; decide))
      (Names.of_turns h.waiting ht (by decide) (by rw [hst]; decide))
  | waiting =>
    rw [hwaiting hst]
    refine h.turned ht (by rw [hst]; decide) (by decide) rfl hlist
      (Names.of_turns h.stack ht (by decide) (by rw [hst]; decide)) ?_
    have hset := Names.leave h.waiting ht (by decide)
    rwa [← waitingSlots_filter] at hset
  | suspended =>
    rw [hsuspended hst]
    refine h.turned ht (by rw [hst]; decide) (by decide) rfl hlist ?_
      (Names.of_turns h.waiting ht (by decide) (by rw [hst]; decide))
    have hset := Names.leave h.stack ht (by decide)
    rwa [List.filter_map] at hset
  | sounding =>
    rw [hrole (.inl hst)]
    exact (h.emptySlot_roleOpen ((holdsRole_iff _).mpr (.inl hst))).handOn
  | paused =>
    rw [hrole (.inr hst)]
    exact (h.emptySlot_roleOpen ((holdsRole_iff _).mpr (.inr hst))).handOn

theorem roleHolder_holds (h : roleHolder s = some k) : holdsRole s.cue.slots[k] = true := by
  rw [holdsRole_iff]
  unfold roleHolder at h
  split at h
  · next j hj =>
    obtain rfl := Option.some.inj h
    exact .inl (slotIn_eq_some.mp hj).1
  · exact .inr (slotIn_eq_some.mp h).1

theorem slotIn_ne_none {st : SlotState} (h : s.cue.slots[k].state = st) : slotIn st s ≠ none := by
  unfold slotIn
  rw [Ne, List.find?_eq_none]
  exact fun hnone => hnone k (List.mem_finRange k) (by simpa using h)

/-- A role that no slot is found to hold is free (02 R28). -/
theorem roleHolder_eq_none (h : roleHolder s = none) : RoleFree s := by
  unfold roleHolder at h
  split at h
  · cases h
  · next hs =>
    exact (roleFree_iff s).mpr fun j => ⟨fun hj => slotIn_ne_none hj hs, fun hj => slotIn_ne_none hj h⟩

theorem refusesStart_eq_false :
    s.refusesStart = false ↔ s.sect.state = .quiet ∨ s.sect.state = .playing ∨ s.sect.state = .paused := by
  unfold State.refusesStart
  cases s.sect.state <;> simp

/-- START takes the role (02 R30, R31, R33). -/
theorem ArbiterLaw.takeRole (h : ArbiterLaw s) (hr : s.refusesStart = false) (hk : s.cue.slots[k].state = .loaded) :
    ArbiterLaw (takeRole k s) := by
  have hsect := refusesStart_eq_false.mp hr
  unfold Machine.takeRole
  split
  · next j hj =>
    have hj := roleHolder_holds hj
    have hne : k ≠ j := by
      rintro rfl
      rw [holdsRole_iff, hk] at hj
      exact hj.elim (nomatch ·) (nomatch ·)
    refine (h.preempt_roleOpen hj).start ?_
    rw [(preempt_turns j s).other hne, hk]
    decide
  · next hnone =>
    have hfree := roleHolder_eq_none hnone
    have hlist : s.sched.fireList = [] := h.noFirings hfree fun hs => by
      rcases hsect with hq | hq | hq <;> exact absurd (hq.symm.trans hs) (by decide)
    exact RoleOpen.start ⟨hfree, hlist, h.halt hsect, h.stack, h.waiting⟩ (by rw [hk]; decide)

/-- A slot that may not start waits (02 R32). -/
theorem ArbiterLaw.enterWaiting (h : ArbiterLaw s) (hk : s.cue.slots[k].state = .loaded) :
    ArbiterLaw (enterWaiting k s) := by
  have ht : Turns k .waiting s (Machine.enterWaiting k s) := updSlot_turns rfl
  refine h.turned ht (by rw [hk]; decide) (by decide) rfl (fun _ => id)
    (Names.of_turns h.stack ht (by decide) (by rw [hk]; decide)) ?_
  refine Names.enter h.waiting ht (by rw [hk]; decide) ?_
  simp only [Machine.enterWaiting, updSlot_arb, List.map_append, List.map_cons, List.map_nil]
  exact List.perm_append_singleton _ _

/-- PAUSE (02 R38). -/
theorem ArbiterLaw.pauseSlot (h : ArbiterLaw s) (hk : s.cue.slots[k].state = .sounding) :
    ArbiterLaw (pauseSlot k s) := by
  have hrole : holdsRole s.cue.slots[k] = true := (holdsRole_iff _).mpr (.inl hk)
  have ht : Turns k .paused s (Machine.pauseSlot k s) := by
    intro j
    rw [← (freezeSounding_rolesWithin k s).states j]
    exact updSlot_turns (s := (freezeSounding k s).2) (f := .pausedAt (freezeSounding k s).1) rfl j
  exact arbiterLaw_of_holder ht (.inr ⟨rfl, rfl⟩) (h.others hrole) (h.withdraw_noFirings hrole) (h.halt_of_role hrole)
    (Names.of_turns h.stack ht (by decide) (by rw [hk]; decide))
    (Names.of_turns h.waiting ht (by decide) (by rw [hk]; decide))

/-- CONTINUE (02 R40). -/
theorem ArbiterLaw.continueSlot (h : ArbiterLaw s) (hk : s.cue.slots[k].state = .paused) :
    ArbiterLaw (continueSlot k s) := by
  have hrole : holdsRole s.cue.slots[k] = true := (holdsRole_iff _).mpr (.inr hk)
  have hlist : s.sched.fireList = [] := List.eq_nil_iff_forall_not_mem.mpr fun f hf =>
    absurd (hk.symm.trans (h.firing_of_role hrole hf).2) (by decide)
  have hsect : (Machine.continueSlot k s).sect = { s.sect with state := .playing } := sound_sect k _
  have ht : Turns k .sounding s (Machine.continueSlot k s) := by
    intro j
    have hstate : RolesWithin s (updSlot k (fun x => { x.withAnchor (continueAnchor s x) with pause := none }) s) :=
      updSlot_rolesWithin fun _ => rfl
    rw [← hstate.states j]
    exact sound_turns k _ j
  have harb : (Machine.continueSlot k s).arb = s.arb := by simp [Machine.continueSlot]
  refine arbiterLaw_of_holder ht (.inl ⟨rfl, by rw [hsect]⟩) (h.others hrole)
    (by simp [Machine.continueSlot, hlist]) (by rw [hsect]; exact h.halt_of_role hrole) ?_ ?_
  · rw [stackNames_iff, harb]
    exact Names.of_turns h.stack ht (by decide) (by rw [hk]; decide)
  · rw [waitingNames_iff, harb]
    exact Names.of_turns h.waiting ht (by decide) (by rw [hk]; decide)

/-- The judgment of the best waiting cue in QUIET (02 R43). -/
theorem ArbiterLaw.judgeWaiting (h : ArbiterLaw s) (hq : s.sect.state = .quiet) : ArbiterLaw (judgeWaiting s) := by
  unfold Machine.judgeWaiting
  split
  · next k hk => exact (h.roleOpen hq).start_qualifier hk
  · exact h

end

/-! #### Commits and arrivals -/

section

variable {k : SlotId} {s : State}

theorem mem_insertFiring {f g : Firing} {l : List Firing} (h : g ∈ insertFiring f l) : g = f ∨ g ∈ l := by
  obtain ⟨front, behind, rfl, -, -, e⟩ := insertFiring_split f l
  rw [e, List.mem_append, List.mem_cons] at h
  rw [List.mem_append]
  exact or_left_comm.mp h

/-- Placing a firing that its source allows (04 R67). -/
theorem ArbiterLaw.placeFiring {time : Time} {kind : FiringKind} (h : ArbiterLaw s) (hk : MayPlan kind.source s) :
    ArbiterLaw (placeFiring time kind s) where
  role := by
    obtain ⟨hone, hagrees, hfirings⟩ := (roleLaw_iff s).mp h.role
    refine (roleLaw_iff _).mpr ⟨hone, hagrees, fun f hf => ?_⟩
    rcases mem_insertFiring hf with rfl | hf
    · exact hk
    · exact hfirings f hf
  halt := h.halt
  stack := h.stack
  waiting := h.waiting

theorem ArbiterLaw.takeOffer {o : Offer} (h : ArbiterLaw s) (hk : s.cue.slots[o.entry.slot].state = .sounding) :
    ArbiterLaw (takeOffer o s).1 := by
  unfold Machine.takeOffer
  split
  · refine h.within (.trans ?_ (raise_rolesWithin _ _))
    exact .of_same rfl rfl rfl rfl
  · dsimp only
    split
    · exact h.placeFiring hk
    · refine h.within (.trans ?_ (raise_rolesWithin _ _))
      exact .of_same rfl rfl rfl rfl

/-- The effect of an entry of the SOUNDING slot (01 R20 to R22). -/
theorem ArbiterLaw.commitEffect {e : Event} {due : Time} (h : ArbiterLaw s) (hk : s.cue.slots[k].state = .sounding) :
    ArbiterLaw (commitEffect k e due s).1 := by
  unfold Machine.commitEffect
  dsimp only
  split
  case h_1 pitch velocity cls _ =>
    unfold commitNote
    split
    · refine h.within (.trans ?_ (raise_rolesWithin _ _))
      exact .of_same rfl rfl rfl rfl
    · exact h.takeOffer hk
  case h_6 => exact h.within (updSlot_rolesWithin fun _ => rfl)
  case h_7 => exact h.within (updSlot_rolesWithin fun _ => rfl)
  all_goals exact h.placeFiring hk

/-- The firing that stands for an arrived one has its source (04 R74). -/
theorem replaceFiring_rolesWithin {f g : Firing} (hf : f ∈ s.sched.fireList) (hg : g.kind = f.kind) :
    RolesWithin s (replaceFiring f g s) where
  states _ := rfl
  stack := rfl
  waiting := rfl
  section_ := rfl
  halt := rfl
  firings f' hf' := by
    obtain ⟨front, behind, hl, hn⟩ := first_of_mem hf
    rw [replaceFiring, setFireList_sched_fireList, hl, replace_first hn, List.mem_append, List.mem_cons] at hf'
    rcases hf' with hf' | rfl | hf'
    · exact ⟨f', hl ▸ List.mem_append_left _ hf', rfl⟩
    · exact ⟨f, hf, by rw [hg]⟩
    · exact ⟨f', hl ▸ List.mem_append_right _ (List.mem_cons_of_mem _ hf'), rfl⟩

/-- A firing of the list arrives (04 R74, R78 to R81); an END hands the role on (02 R39). -/
theorem ArbiterLaw.arrive {f : Firing} (h : ArbiterLaw s) (hf : f ∈ s.sched.fireList) : ArbiterLaw (arrive f s) := by
  have hleft : RolesWithin s (removeFiring f s) := removeFiring_rolesWithin f s
  unfold Machine.arrive
  split
  case h_1 => exact h.within (replaceFiring_rolesWithin hf rfl)
  case h_2 => exact h.within (replaceFiring_rolesWithin hf rfl)
  case h_3 => exact h.within (hleft.trans (.of_same rfl rfl rfl rfl))
  case h_4 => exact h.within (hleft.trans (.of_same rfl rfl rfl rfl))
  case h_5 => exact h.within (hleft.trans (.of_same rfl rfl rfl rfl))
  case h_6 e hkind =>
    have hsounding : s.cue.slots[e.slot].state = .sounding := by
      have hmay := h.mayPlan hf
      rw [hkind] at hmay
      exact hmay
    have hlaw := h.within (hleft.trans (setFlag_rolesWithin .cueDone _))
    exact (hlaw.emptySlot_roleOpen ((holdsRole_iff _).mpr (.inl hsounding))).handOn

theorem ArbiterLaw.arriveIfReached {placed : Option Firing} (h : ArbiterLaw s) :
    ArbiterLaw (arriveIfReached placed s) := by
  unfold Machine.arriveIfReached
  split
  · split
    · exact arriveInTurn_law (fun f t hf ht => ht.arrive hf) _ s h
    · exact h
  · exact h

theorem advance_state (note : Annotation) (x : Slot) : (x.advance note).state = x.state := by
  unfold Slot.advance
  split <;> rfl

/-- The commit of the SOUNDING slot's head entry (01 R19). -/
theorem ArbiterLaw.commitHead (h : ArbiterLaw s) (hk : s.cue.slots[k].state = .sounding) :
    ArbiterLaw (commitHead k s) := by
  unfold Machine.commitHead
  split
  · split
    · next e _ _ due _ =>
      have hreleased : ∀ (note : Annotation) (v : State),
          RolesWithin v (updSlot k (fun x => (x.advance note).releaseEntries s.now) v) := fun note v =>
        updSlot_rolesWithin (advance_state note)
      have hnoticed : ∀ v : State, RolesWithin v (noticeUnderrun k (noticeLow k v)) := fun v =>
        .of_same (by simp) (by simp) (by simp) (by simp)
      exact ((h.commitEffect hk).within ((hreleased _ _).trans (hnoticed _))).arriveIfReached
    · exact h
  · exact h

/-- A TEST firing is placed in SERVICE and arrives (06 R128). -/
theorem ArbiterLaw.placeTest {sh : Shot} (h : ArbiterLaw s) (hs : s.sect.state = .service) :
    ArbiterLaw (placeTest sh s) := by
  refine (h.placeFiring (kind := .test sh) hs).arrive ?_
  obtain ⟨front, behind, -, -, -, e⟩ := insertFiring_split (nextFiring s.now (.test sh) s) s.sched.fireList
  rw [Machine.placeFiring, e]
  exact List.mem_append_right _ List.mem_cons_self

end

/-! #### Phases and channels -/

section

variable {s : State}

theorem changeRail_rolesWithin (r : RailId) (f : Rail → Rail) (s : State) : RolesWithin s (changeRail r f s) := by
  unfold changeRail raiseOverload
  split
  · refine .trans ?_ (raise_rolesWithin _ _)
    exact .of_same rfl rfl rfl rfl
  · exact .of_same rfl rfl rfl rfl

theorem switchTable_rolesWithin (s : State) : RolesWithin s (switchTable s) := by
  unfold switchTable
  split
  · refine .trans ?_ (setFlag_rolesWithin _ _)
    exact .of_same rfl rfl rfl rfl
  · exact .refl s

/-- A pulse begin reaches the statistics and not the fire list (04 R77). -/
theorem beginPulse_fireList (c : ChannelId) (p : Pulse) (noCurrent : Bool) (s : State) :
    (beginPulse c p noCurrent s).sched.fireList = s.sched.fireList := by
  unfold beginPulse recordBegin
  split <;> simp

theorem grantPulse_rolesWithin (c : ChannelId) (p : Pulse) (noCurrent : Bool) (s : State) :
    RolesWithin s (grantPulse c p noCurrent s) := by
  refine .of_same (by simp) (by simp) (by simp) ?_
  unfold grantPulse
  split
  · exact beginPulse_fireList c p noCurrent s
  · rfl
  · rfl

theorem grant_rolesWithin (v : BitVec 96) (f : Firing) (sh : Shot) (s : State) : RolesWithin s (grant v f sh s) := by
  have hcharged : RolesWithin s (updRail sh.rail (.charged sh.charge) s) := .of_same rfl rfl rfl rfl
  exact hcharged.trans ((removeFiring_rolesWithin f _).trans (grantPulse_rolesWithin _ _ _ _))

/-- A walk takes granted firings out of the list (05 R106). -/
theorem walkGrants_rolesWithin (v : BitVec 96) (n : Nat) (l : List Firing) (s : State) :
    RolesWithin s (walkGrants v n l s) := by
  induction l generalizing n s with
  | nil => rw [walkGrants]; exact .refl s
  | cons f rest ih =>
    rw [walkGrants]
    split
    · exact ih n s
    · split
      · exact ih n s
      · split
        · exact .refl s
        · split
          · exact (grant_rolesWithin v f _ s).trans (ih _ _)
          · exact .refl s

theorem admission_rolesWithin (v : BitVec 96) (s : State) : RolesWithin s (admission v s) := by
  unfold admission
  split
  · exact walkGrants_rolesWithin _ _ _ s
  · exact .refl s

theorem startPhase_rolesWithin (v : BitVec 96) (s : State) : RolesWithin s (startPhase v s) := by
  have haccount : ∀ t, RolesWithin t (accountRails t) := fun t =>
    foldl_rolesWithin (fun _ _ => changeRail_rolesWithin _ _ _) _ t
  refine .trans ?_ ((switchTable_rolesWithin _).trans ((haccount _).trans (admission_rolesWithin v _)))
  exact .of_same rfl rfl rfl rfl

theorem endRecovery_rolesWithin (c : ChannelId) (noCurrent : Bool) (s : State) :
    RolesWithin s (endRecovery c noCurrent s) := by
  refine .of_same (by simp) (by simp) (by simp) ?_
  unfold endRecovery
  split
  · exact beginPulse_fireList c _ noCurrent _
  · rfl

theorem settleChannel_rolesWithin (c : ChannelId) (noCurrent : Bool) (s : State) :
    RolesWithin s (settleChannel c noCurrent s) := by
  unfold settleChannel
  split
  · exact .refl s
  · split
    · exact .of_same rfl rfl rfl rfl
    · exact endRecovery_rolesWithin c noCurrent s
  · split
    · exact .of_same rfl rfl rfl rfl
    · exact endRecovery_rolesWithin c noCurrent s

theorem setMembership_rolesWithin (v : Option GroupId) (l : List ChannelId) (s : State) :
    RolesWithin s (setMembership v l s) := by
  unfold setMembership
  refine foldl_rolesWithin (fun _ _ => ?_) l s
  exact .of_same rfl rfl rfl rfl

theorem acceptFrame_rolesWithin (l : Link) (b : BufferedFrame) (s : State) : RolesWithin s (acceptFrame l b s) := by
  have hstored : RolesWithin s (updUnit l (.store s.now b) s) := .of_same (by simp) (by simp) (by simp) (by simp)
  refine hstored.trans ?_
  unfold acceptFrame notePendantFrame
  split
  · exact .of_calm (calm_sect _ _ (by simp) (by simp))
  · exact .refl _

theorem anchorAtBatch_state (showNow : Time) (es : List Event) (x : Slot) :
    (anchorAtBatch showNow es x).state = x.state := by
  unfold anchorAtBatch
  split <;> rfl

end

/-! #### Sections without the role -/

/-- A section record of QUIET, HUSHING, SERVICE or HALTED, halt-pending clear in QUIET (07 R130). -/
def RoleLess (r : SectionRecord) : Prop :=
  r.state ≠ .playing ∧ r.state ≠ .paused ∧ (r.state = .quiet → r.haltPending = false)

theorem hushEnds_roleLess {r : SectionRecord} {s u : State} (h : HushEnds r s u) : RoleLess u.sect := by
  obtain ⟨hservice, hquiet⟩ := h
  cases ht : r.hushTarget with
  | service =>
    rw [(hservice ht).1]
    exact ⟨nofun, nofun, nofun⟩
  | quiet =>
    rw [(hquiet ht).1]
    cases hh : r.haltPending with
    | true => exact ⟨nofun, nofun, nofun⟩
    | false => exact ⟨nofun, nofun, fun _ => rfl⟩

section

variable {s t : State}

/-- The laws where no slot holds the role and nothing is planned. -/
theorem arbiterLaw_of_roleLess (hfree : RoleFree t) (hsect : RoleLess t.sect) (hlist : t.sched.fireList = [])
    (hstack : StackNamesSuspended t) (hwaiting : WaitingSetNamesWaiting t) : ArbiterLaw t := by
  obtain ⟨hplay, hpause, hhalt⟩ := hsect
  refine ⟨roleLaw_of_free hfree hplay hpause (by simp [hlist]), ?_, hstack, hwaiting⟩
  rintro (hs | hs | hs)
  · exact hhalt hs
  · exact absurd hs hplay
  · exact absurd hs hpause

/-- The laws where every slot is EMPTY. -/
theorem arbiterLaw_of_empty (hempty : ∀ k : SlotId, t.cue.slots[k].state = .empty) (hsect : RoleLess t.sect)
    (hlist : t.sched.fireList = []) (hstack : t.arb.stack = []) (hwaiting : t.arb.waiting = []) : ArbiterLaw t := by
  have names_nil : ∀ st : SlotState, st ≠ .empty → Names [] st t := fun st hst =>
    ⟨.nil, fun k => by rw [hempty k]; exact iff_of_false hst.symm List.not_mem_nil⟩
  refine arbiterLaw_of_roleLess ((roleFree_iff t).mpr fun k => by rw [hempty k]; decide) hsect hlist ?_ ?_
  · rw [stackNames_iff, hstack]; exact names_nil .suspended (by decide)
  · rw [waitingNames_iff, hwaiting]; exact names_nil .waiting (by decide)

/-- The section moves between states without the role, the TEST firings gone (07 Table 7.1.1). -/
theorem ArbiterLaw.moved (h : ArbiterLaw s) (hplay : s.sect.state ≠ .playing) (hpause : s.sect.state ≠ .paused)
    (htest : s.sect.state = .service → ∀ f ∈ s.sched.fireList, f.kind.source ≠ .test) (hcue : t.cue = s.cue)
    (harb : t.arb = s.arb) (hsched : t.sched = s.sched) (hsect : RoleLess t.sect) : ArbiterLaw t := by
  have hfree : RoleFree s := h.free hplay hpause
  refine arbiterLaw_of_roleLess ?_ hsect (by rw [hsched]; exact h.noFirings hfree htest) ?_ ?_
  · rw [RoleFree, hcue]; exact hfree
  · rw [StackNamesSuspended, hcue, harb]; exact h.stack
  · rw [WaitingSetNamesWaiting, hcue, harb]; exact h.waiting

theorem beginHush_arbiterLaw (target : HushTarget) (halt : Bool) (s : State) :
    ArbiterLaw (beginHush target halt s) := by
  obtain ⟨hslots, -, -, harb, hsched, -, -, -, hsect, -⟩ := beginHush_begins target halt s
  refine arbiterLaw_of_empty (fun k => ?_) ?_ (by rw [hsched]) (by rw [harb]) (by rw [harb])
  · rw [hslots k]
    split
    · next hk => exact hk
    · rfl
  · split at hsect
    · exact hushEnds_roleLess hsect
    · rw [hsect.1]
      exact ⟨nofun, nofun, nofun⟩

theorem ArbiterLaw.completeIfDone (h : ArbiterLaw s) : ArbiterLaw (completeIfDone s) := by
  unfold Machine.completeIfDone
  split
  · next hdone =>
    have hs : s.sect.state = .hushing := by
      simp only [hushComplete, Bool.and_eq_true, beq_iff_eq] at hdone
      exact hdone.1.1
    exact h.moved (by rw [hs]; decide) (by rw [hs]; decide) (fun hserv => absurd (hs.symm.trans hserv) (by decide))
      (by simp) (by simp) (by simp) (hushEnds_roleLess (completeHush_ends s))
  · exact h

theorem enterService_state (s : State) : (enterService s).sect.state = .service := by
  unfold enterService
  rw [setFlag_sect]
  exact startTimer_state _ _

end

/-! #### Every change -/

theorem change_arbiterLaw {s t : State} (h : Change s t) (hs : ArbiterLaw s) : ArbiterLaw t := by
  induction h with
  | refl => exact hs
  | trans _ _ ih1 ih2 => exact ih2 (ih1 hs)
  | calm h => exact hs.within (RolesWithin.of_calm h)
  | powerOn a r x y n p s =>
    exact arbiterLaw_of_empty (fun k => by rw [powerOn_slot]; rfl) ⟨nofun, nofun, fun _ => rfl⟩ rfl rfl rfl
  | accept l b s => exact hs.within (acceptFrame_rolesWithin l b s)
  | openCue k c s _ _ hk =>
    have ht : Turns k .loaded s (updSlot k (fun _ => Slot.opened c) s) := updSlot_turns rfl
    exact hs.turned ht (by rw [hk]; decide) (by decide) rfl (fun _ => id)
      (Names.of_turns hs.stack ht (by decide) (by rw [hk]; decide))
      (Names.of_turns hs.waiting ht (by decide) (by rw [hk]; decide))
  | events k es s => exact hs.within (updSlot_rolesWithin fun _ => anchorAtBatch_state _ _ _)
  | slotDetails k g s h => exact hs.within (updSlot_rolesWithin fun x => (h x).1)
  | takeRole k s hr hk => exact hs.takeRole hr hk
  | enterWaiting k s _ hk => exact hs.enterWaiting hk
  | pause k s _ hk => exact hs.pauseSlot (slotIn_eq_some.mp hk).1
  | continue_ k s _ hk => exact hs.continueSlot (slotIn_eq_some.mp hk).1
  | drop k s => exact hs.dropSlot k
  | judge s hq => exact hs.judgeWaiting hq
  | group g new s =>
    refine hs.within (.trans ?_ ((setMembership_rolesWithin _ _ _).trans (setMembership_rolesWithin _ _ _)))
    exact .of_same rfl rfl rfl rfl
  | railSetting r limit drain s => exact hs.within (changeRail_rolesWithin r _ s)
  | channel c g noCurrent s =>
    refine hs.within (.trans ?_ (settleChannel_rolesWithin c noCurrent _))
    exact .of_same rfl rfl rfl rfl
  | recoveryEnd c noCurrent s => exact hs.within (endRecovery_rolesWithin c noCurrent s)
  | test sh s hserv => exact hs.placeTest hserv
  | commit k s hk =>
    obtain ⟨e, hdue, -⟩ := commitReady_iff.mp hk
    exact hs.commitHead hdue.1
  | arrive f s hf => exact hs.arrive hf
  | leave f s => exact hs.within (removeFiring_rolesWithin f s)
  | phase noCurrent s => exact hs.within (startPhase_rolesWithin noCurrent s)
  | hush target halt s => exact beginHush_arbiterLaw target halt s
  | halt s hh =>
    exact hs.moved (by rw [hh]; decide) (by rw [hh]; decide) (fun hserv => absurd (hh.symm.trans hserv) (by decide))
      rfl rfl rfl ⟨by rw [hh]; decide, by rw [hh]; decide, fun hq => absurd (hh.symm.trans hq) (by decide)⟩
  | complete s => exact hs.completeIfDone
  | takeover s hh =>
    refine hs.moved ?_ ?_ (fun hserv => ?_) (by simp) (by simp) (by simp) ?_
    · rcases hh with hh | hh <;> rw [hh] <;> decide
    · rcases hh with hh | hh <;> rw [hh] <;> decide
    · rcases hh with hh | hh <;> exact absurd (hh.symm.trans hserv) (by decide)
    · rw [RoleLess, enterService_state]
      exact ⟨nofun, nofun, nofun⟩
  | removeTests s =>
    exact hs.within (.of_blocks rfl rfl rfl fun _ hf => (List.mem_filter.mp hf).1)
  | toHalted s hserv htest =>
    exact hs.moved (by rw [hserv]; decide) (by rw [hserv]; decide) (fun _ => htest) rfl rfl rfl ⟨nofun, nofun, nofun⟩
  | toQuiet s hh =>
    refine hs.moved ?_ ?_ (fun hserv => ?_) rfl rfl rfl ⟨nofun, nofun, fun _ => rfl⟩
    · rcases hh with ⟨hh, -⟩ | hh <;> rw [hh] <;> decide
    · rcases hh with ⟨hh, -⟩ | hh <;> rw [hh] <;> decide
    · rcases hh with ⟨-, htest⟩ | hh
      · exact htest
      · exact absurd (hh.symm.trans hserv) (by decide)
  | window | lanes | railLatch | takeOut | short | unfence | pulseEnd =>
    exact hs.within (.of_same rfl rfl rfl rfl)

/-- Settles O59: the four laws together are kept by every change that a step is made of. -/
theorem rolesKept : Obligations.RolesKept := by
  unfold Obligations.RolesKept
  intro s t hrole hhalt hstack hwaiting hstep
  obtain ⟨hrole, hhalt, hstack, hwaiting⟩ :=
    law_of_changes (fun _ _ => change_arbiterLaw) s t ⟨hrole, hhalt, hstack, hwaiting⟩ hstep
  exact ⟨hrole, hhalt, hstack, hwaiting⟩

end Sys2Proof.Machine

namespace Sys2Proof.Machine

open Safety

/-! #### START (02 R29 to R33) -/

section

variable {f : Frame} {s t u : State} {slot : Byte} {k j : SlotId} {code : ReplyCode} {data : List Byte}

theorem start_answers (h : Offered 0x20 f s t) (hf : f.fields = [slot])
    (ha : startAct f.link slot t = (u, ⟨code, data⟩)) : Answers 0x20 (.start f) f s code data u :=
  answers_addressed (decode := startBody f.link) h rfl (addressed_allows h) (by rw [hf]; rfl) ha

theorem startAct_range (hn : ¬ FromShowInService f t) (hr : 3 < slot.toNat) :
    startAct f.link slot t = (t, ⟨.range, []⟩) := by
  rw [startAct, unlessTaken_free hn, toFin_none hr]
  rfl

theorem startAct_eq (hn : ¬ FromShowInService f t) (hk : slot.toNat = k.val) :
    startAct f.link slot t = startLoaded k t := by
  rw [startAct, unlessTaken_free hn, toFin_eq hk]

theorem startLoaded_refuses (h : t.refusesStart = true ∨ t.cue.slots[k].state ≠ .loaded) :
    startLoaded k t = (t, ⟨.state, []⟩) := by
  rw [← bne_iff_ne, ← Bool.or_eq_true] at h
  rw [startLoaded, if_pos h]
  rfl

/-- A LOADED slot of a section that takes a START is judged against the effective mask (02 R30). -/
theorem startLoaded_judged (hr : t.refusesStart = false) (hk : t.cue.slots[k].state = .loaded) :
    (Exceeds k (effectiveMask t) t → startLoaded k t = (takeRole k t, ⟨.done, [3]⟩)) ∧
    (¬ Exceeds k (effectiveMask t) t → startLoaded k t = (enterWaiting k t, ⟨.done, [2]⟩)) := by
  have hpass : ¬ (t.refusesStart || t.cue.slots[k].state != .loaded) = true := by
    rw [hr, Bool.false_or, bne_iff_ne]
    exact fun hne => hne hk
  rw [startLoaded, if_neg hpass, ← beats_iff]
  exact ⟨fun he => if_pos he, fun he => if_neg he⟩

theorem effectiveMask_free (h : RoleFree t) : effectiveMask t = t.arb.baseMask := by
  rw [effectiveMask, roleHolder_none h]

theorem effectiveMask_held (h : HoldsRoleAlone j t) : effectiveMask t = t.cue.slots[j].priority := by
  rw [effectiveMask, roleHolder_some h]

theorem takeRole_free (h : RoleFree t) : takeRole k t = startSlot k t := by
  rw [takeRole, roleHolder_none h]

theorem takeRole_held (h : HoldsRoleAlone j t) : takeRole k t = startSlot k (preempt j t) := by
  rw [takeRole, roleHolder_some h]

end

theorem refusesStart_eq_true {s : State} :
    s.refusesStart = true ↔ s.sect.state = .hushing ∨ s.sect.state = .halted ∨ s.sect.state = .service := by
  unfold State.refusesStart
  cases s.sect.state <;> simp

/-- Settles O19: the refusals, and then the judgment against the mask of a free role and of an occupied one. -/
theorem start : Obligations.Start := by
  unfold Obligations.Start
  intro f s t slot h hn hf a
  refine ⟨fun hr => start_answers h hf (startAct_range hn hr), fun k hk => ?_⟩
  intro waits
  have answers : ∀ {u : State} {code : ReplyCode} {data : List Byte}, startLoaded k t = (u, ⟨code, data⟩) →
      a code data u := fun ha => start_answers h hf ((startAct_eq hn hk).trans ha)
  refine ⟨fun hrefused => answers (startLoaded_refuses ?_), fun hush halt serv hst => ?_⟩
  · rw [refusesStart_eq_true, or_assoc, or_assoc]
    exact hrefused
  have haccept : t.refusesStart = false := by
    rw [← Bool.not_eq_true, refusesStart_eq_true, not_or, not_or]
    exact ⟨hush, halt, serv⟩
  obtain ⟨htakes, hwaits⟩ := startLoaded_judged haccept hst
  refine ⟨fun hfree he => ⟨_, startSlot_starts k t, ?_⟩, fun hfree he => ?_, fun j hj he => ?_,
    fun j hj he hpause => ⟨_, _, preempt_preempts hj.1 hpause, startSlot_starts k _, ?_⟩⟩
  · rw [← effectiveMask_free hfree] at he
    exact answers (takeRole_free hfree ▸ htakes he)
  · rw [← effectiveMask_free hfree] at he
    exact answers (hwaits he)
  · rw [← effectiveMask_held hj] at he
    exact answers (hwaits he)
  · rw [← effectiveMask_held hj] at he
    exact answers (takeRole_held hj ▸ htakes he)

/-! #### PAUSE and CONTINUE (02 R38, R40) -/

section

variable {f : Frame} {s t u : State} {k : SlotId} {code : ReplyCode}

theorem pause_answers (h : Offered 0x21 f s t) (hf : f.fields = []) (ha : pauseAct f.link t = (u, ⟨code, []⟩)) :
    Answers 0x21 (.pause f) f s code [] u :=
  answers_addressed (decode := pauseBody f.link) h rfl (addressed_allows h) (by rw [hf]; rfl) ha

theorem continue_answers (h : Offered 0x22 f s t) (hf : f.fields = [])
    (ha : continueAct f.link t = (u, ⟨code, []⟩)) : Answers 0x22 (.continueCue f) f s code [] u :=
  answers_addressed (decode := continueBody f.link) h rfl (addressed_allows h) (by rw [hf]; rfl) ha

theorem pauseAct_refuses (hn : ¬ FromShowInService f t) (hs : t.sect.state ≠ .playing) :
    pauseAct f.link t = (t, ⟨.state, []⟩) := by
  rw [pauseAct, unlessTaken_free hn]
  split
  · next hplay _ => exact absurd hplay hs
  · rfl

theorem pauseAct_pauses (hn : ¬ FromShowInService f t) (hs : t.sect.state = .playing)
    (hk : t.cue.slots[k].state = .sounding) (hu : ∀ j : SlotId, t.cue.slots[j].state = .sounding → j = k) :
    pauseAct f.link t = (pauseSlot k t, ⟨.done, []⟩) := by
  rw [pauseAct, unlessTaken_free hn, hs, slotIn_some hk hu]
  rfl

theorem continueAct_refuses (hn : ¬ FromShowInService f t) (hs : t.sect.state ≠ .paused) :
    continueAct f.link t = (t, ⟨.state, []⟩) := by
  rw [continueAct, unlessTaken_free hn]
  split
  · next hpaused _ => exact absurd hpaused hs
  · rfl

theorem continueAct_continues (hn : ¬ FromShowInService f t) (hs : t.sect.state = .paused)
    (hk : t.cue.slots[k].state = .paused) (hu : ∀ j : SlotId, t.cue.slots[j].state = .paused → j = k) :
    continueAct f.link t = (continueSlot k t, ⟨.done, []⟩) := by
  rw [continueAct, unlessTaken_free hn, hs, slotIn_some hk hu]
  rfl

end

theorem rewindToFreeze_eq (p : PauseRecord) (x : Slot) :
    x.rewindToFreeze p = if p.point = .entry then x.rewind p.freezeTick else x := by
  unfold Slot.rewindToFreeze
  cases p.point <;> rfl

/-- What a pause leaves: the slot frozen before its firings are withdrawn (02 R38). -/
theorem pauseSlot_eq (k : SlotId) (s : State) :
    let p := freezeOf s.now (actingPlaces k s) s.cue.slots[k]
    pauseSlot k s =
      { updSlot k (fun _ => (s.cue.slots[k].rewindToFreeze p).pausedAt p) (withdraw k s) with
        sect := { s.sect with state := .paused } } := by
  intro p
  have hslot : updSlot k (.pausedAt p) (updSlot k (.rewindToFreeze p) (withdraw k s)) =
      updSlot k (fun _ => (s.cue.slots[k].rewindToFreeze p).pausedAt p) (withdraw k s) :=
    (updSlot_updSlot k _ _ _).trans (updSlot_congr rfl)
  exact congrArg (setSection .paused) hslot

/-- The anchor that CONTINUE sets is at the slot's tempo in force (02 R40). -/
theorem continueAnchor_tempo (s : State) (x : Slot) : (continueAnchor s x).tempo = x.timing.tempo := by
  unfold continueAnchor
  split <;> rfl

/-- What CONTINUE leaves (02 R40). -/
theorem continueSlot_eq (k : SlotId) (s : State) :
    continueSlot k s =
      { updSlot k (fun y =>
          { y with state := .sounding, pause := none, anchor := continueAnchor s s.cue.slots[k] }) s with
        sect := { s.sect with state := .playing }
        fault := withLow s.cue.slots[k] s.fault } := by
  have hslot : updSlot k (fun x => { x.withAnchor (continueAnchor s x) with state := .sounding, pause := none }) s =
      updSlot k (fun y =>
        { y with state := .sounding, pause := none, anchor := continueAnchor s s.cue.slots[k] }) s := by
    apply updSlot_congr
    rw [Slot.withAnchor, continueAnchor_tempo]
  rw [continueSlot, sound, noticeLow_eq, updSlot_updSlot, hslot]
  simp only [setSection_cue, updSlot_cue_slots, upd_get_self]
  rfl

/-- Settles O20: the refusals by the section's state, and what a pause and a continue of the one slot leave. -/
theorem pauseAndContinue : Obligations.PauseAndContinue := by
  unfold Obligations.PauseAndContinue
  refine ⟨fun f s t h hn hf => ⟨fun hs => pause_answers h hf (pauseAct_refuses hn hs),
      fun k hs hk hu => ⟨_, withdraw_withdraws k t, ?_⟩⟩,
    fun f s t h hn hf => ⟨fun hs => continue_answers h hf (continueAct_refuses hn hs), fun k p hs hk hu hp => ?_⟩⟩
  · intro p x
    refine pause_answers h hf ((pauseAct_pauses hn hs hk hu).trans ?_)
    rw [pauseSlot_eq, rewindToFreeze_eq]
    rfl
  · intro x anchor
    refine continue_answers h hf ((continueAct_continues hn hs hk hu).trans ?_)
    have hanchor : continueAnchor t x = anchor := by
      dsimp only [anchor]
      unfold continueAnchor
      rw [hp]
      cases x.ring.unplayed <;> rfl
    rw [continueSlot_eq, hanchor]

/-! #### SET MASK (02 R43) -/

section

variable {f : Frame} {s t u : State} {mask : Byte} {code : ReplyCode}

theorem setMask_answers (h : Offered 0x24 f s t) (hf : f.fields = [mask])
    (ha : setMaskAct f.link mask t = (u, ⟨code, []⟩)) : Answers 0x24 (.setMask f) f s code [] u :=
  answers_addressed (decode := setMaskBody f.link) h rfl (addressed_allows h) (by rw [hf]; rfl) ha

theorem setMaskAct_range (hn : ¬ FromShowInService f t) (hr : 7 < mask.toNat) :
    setMaskAct f.link mask t = (t, ⟨.range, []⟩) := by
  rw [setMaskAct, unlessTaken_free hn, if_neg (Nat.not_le.mpr hr)]
  rfl

theorem setMaskAct_applies (hn : ¬ FromShowInService f t) (hr : mask.toNat ≤ 7) :
    setMaskAct f.link mask t = (applyMask mask.toNat t, ⟨.done, []⟩) := by
  rw [setMaskAct, unlessTaken_free hn, if_pos hr]
  rfl

end

/-! #### SET TRANSPOSE and SET DYNAMICS (02 R44, R45) -/

section

variable {f : Frame} {s t u : State} {slot value : Byte} {k : SlotId} {code : ReplyCode}

theorem setTranspose_answers (h : Offered 0x25 f s t) (hf : f.fields = [slot, value])
    (ha : setTransposeAct f.link slot value t = (u, ⟨code, []⟩)) : Answers 0x25 (.setTranspose f) f s code [] u :=
  answers_addressed (decode := setTransposeBody f.link) h rfl (addressed_allows h) (by rw [hf]; rfl) ha

theorem setDynamics_answers (h : Offered 0x26 f s t) (hf : f.fields = [slot, value])
    (ha : setDynamicsAct f.link slot value t = (u, ⟨code, []⟩)) : Answers 0x26 (.setDynamics f) f s code [] u :=
  answers_addressed (decode := setDynamicsBody f.link) h rfl (addressed_allows h) (by rw [hf]; rfl) ha

theorem setTransposeAct_range (hn : ¬ FromShowInService f t)
    (hr : 3 < slot.toNat ∨ value.toInt < -24 ∨ 24 < value.toInt) :
    setTransposeAct f.link slot value t = (t, ⟨.range, []⟩) := by
  rw [setTransposeAct, unlessTaken_free hn]
  rcases Nat.lt_or_ge slot.toNat 4 with hslot | hslot
  · rw [toFin_eq (i := ⟨slot.toNat, hslot⟩) rfl]
    dsimp only
    rw [s8, if_neg (by omega)]
    rfl
  · rw [toFin_none hslot]
    rfl

theorem setTransposeAct_eq (hn : ¬ FromShowInService f t) (hk : slot.toNat = k.val) (h1 : -24 ≤ value.toInt)
    (h2 : value.toInt ≤ 24) :
    setTransposeAct f.link slot value t =
      changeSetting k (fun x => { x with transposition := value.toInt })
        (fun r => { r with transposition := value.toInt }) t := by
  rw [setTransposeAct, unlessTaken_free hn, toFin_eq hk]
  dsimp only
  rw [s8, if_pos ⟨h1, h2⟩]

theorem setDynamicsAct_range (hn : ¬ FromShowInService f t)
    (hr : 3 < slot.toNat ∨ value.toNat < 25 ∨ 200 < value.toNat) :
    setDynamicsAct f.link slot value t = (t, ⟨.range, []⟩) := by
  rw [setDynamicsAct, unlessTaken_free hn]
  rcases Nat.lt_or_ge slot.toNat 4 with hslot | hslot
  · rw [toFin_eq (i := ⟨slot.toNat, hslot⟩) rfl]
    dsimp only
    rw [if_neg (by omega)]
    rfl
  · rw [toFin_none hslot]
    rfl

theorem setDynamicsAct_eq (hn : ¬ FromShowInService f t) (hk : slot.toNat = k.val) (h1 : 25 ≤ value.toNat)
    (h2 : value.toNat ≤ 200) :
    setDynamicsAct f.link slot value t =
      changeSetting k (fun x => { x with dynamics := value.toNat })
        (fun r => { r with dynamics := value.toNat }) t := by
  rw [setDynamicsAct, unlessTaken_free hn, toFin_eq hk]
  dsimp only
  rw [if_pos ⟨h1, h2⟩]

theorem changeSetting_empty {g : Slot → Slot} {h : ContextRecord → ContextRecord}
    (hk : t.cue.slots[k].state = .empty) : changeSetting k g h t = (t, ⟨.state, []⟩) := by
  rw [changeSetting, hk]
  rfl

/-- A setting of a slot that is not EMPTY, and of its context record while it is SUSPENDED (02 R44, R45). -/
theorem changeSetting_done {g : Slot → Slot} {h : ContextRecord → ContextRecord}
    (hk : t.cue.slots[k].state ≠ .empty) :
    changeSetting k g h t =
      (if t.cue.slots[k].state = .suspended then
        { updSlot k g t with
          arb := { t.arb with stack := t.arb.stack.map fun r => if r.slot = k then h r else r } }
      else updSlot k g t, ⟨.done, []⟩) := by
  unfold changeSetting
  split
  · next hst => exact absurd hst hk
  · next hst => rw [if_pos hst]; rfl
  all_goals next hst => rw [if_neg (by rw [hst]; decide)]; rfl

end

/-- Settles O23: the ranges, and then the mask with its judgment in QUIET and the two settings of a slot. -/
theorem maskTransposeAndDynamics : Obligations.MaskTransposeAndDynamics := by
  unfold Obligations.MaskTransposeAndDynamics
  refine ⟨fun f s t mask h hn hf => ?_, fun f s t slot value hn hf => ?_⟩
  · intro a v
    refine ⟨fun hr => setMask_answers h hf (setMaskAct_range hn hr),
      fun hr hs => setMask_answers h hf ((setMaskAct_applies hn hr).trans ?_),
      fun hr hs => ⟨_, judgeWaiting_judged v, setMask_answers h hf ((setMaskAct_applies hn hr).trans ?_)⟩⟩
    · exact congrArg (·, _) (if_neg hs)
    · exact congrArg (·, _) (if_pos hs)
  · intro changed
    refine ⟨fun h => ⟨fun hr => setTranspose_answers h hf (setTransposeAct_range hn hr), fun k hk h1 h2 => ?_⟩,
      fun h => ⟨fun hr => setDynamics_answers h hf (setDynamicsAct_range hn hr), fun k hk h1 h2 => ?_⟩⟩
    · have hact := setTransposeAct_eq hn hk h1 h2
      exact ⟨fun hst => setTranspose_answers h hf (hact.trans (changeSetting_empty hst)),
        fun hst => setTranspose_answers h hf (hact.trans (changeSetting_done hst))⟩
    · have hact := setDynamicsAct_eq hn hk h1 h2
      exact ⟨fun hst => setDynamics_answers h hf (hact.trans (changeSetting_empty hst)),
        fun hst => setDynamics_answers h hf (hact.trans (changeSetting_done hst))⟩

end Sys2Proof.Machine

namespace Sys2Proof.Machine

open Safety

/-! ### O58 and O60: the pitch map, DRIVE_SHORT's severity and the frame buffers (03 R49, R55, R61, 08 R157, 09 R173)

The laws speak of few fields, and most changes leave those fields as they are (`Undisturbed`). What is left are the
requests that write the pitch map, the acceptance of a frame, and power-on. -/

/-- What the laws speak of is unchanged, but that frames may have left their buffers. -/
structure Undisturbed (s t : State) : Prop where
  windows : t.pitch.windows = s.pitch.windows
  groups : t.pitch.groups = s.pitch.groups
  lanes : t.pitch.lanes = s.pitch.lanes
  membership : ∀ c : ChannelId, t.drive.strikes[c].group = s.drive.strikes[c].group
  short : t.fault.kinds[ErrorKind.driveShort.number].severity = s.fault.kinds[ErrorKind.driveShort.number].severity
  show_ : t.showUnit.buffers.length ≤ s.showUnit.buffers.length
  service : t.serviceUnit.buffers.length ≤ s.serviceUnit.buffers.length

/-! #### The operations on one channel -/

section

variable (c : StrikeChannel)

theorem cut_group (now : Time) : (c.cut now).group = c.group := by
  unfold StrikeChannel.cut
  split <;> rfl

theorem configured_group (g : ChannelSettings) : (c.configured g).group = c.group := by
  unfold StrikeChannel.configured
  dsimp only
  split <;> rfl

theorem emptySlotOf_group (src : Source) : (c.emptySlotOf src).group = c.group := by
  unfold StrikeChannel.emptySlotOf
  split <;> rfl

theorem dropTest_group (now : Time) : (c.dropTest now).group = c.group := by
  have hempty : (c.emptySlotOf .test).group = c.group := emptySlotOf_group c .test
  unfold StrikeChannel.dropTest
  split
  · split
    · exact (cut_group _ now).trans hempty
    · exact hempty
  · exact hempty
  · exact hempty

end

section

variable {s t u : State}

theorem Undisturbed.trans (h : Undisturbed s t) (g : Undisturbed t u) : Undisturbed s u where
  windows := g.windows.trans h.windows
  groups := g.groups.trans h.groups
  lanes := g.lanes.trans h.lanes
  membership c := (g.membership c).trans (h.membership c)
  short := g.short.trans h.short
  show_ := Nat.le_trans g.show_ h.show_
  service := Nat.le_trans g.service h.service

theorem Undisturbed.of_calm (h : Calm s t) : Undisturbed s t where
  windows := h.windows
  groups := h.groups
  lanes := h.lanes
  membership c := by rewrite [h.strikes]; rfl
  short := h.short
  show_ := h.show_
  service := h.service

theorem Undisturbed.refl (s : State) : Undisturbed s s := .of_calm (.refl s)

/-- The pitch map, the links and the error kinds are the same, and every channel is in its group. -/
theorem Undisturbed.of_members (hpitch : t.pitch = s.pitch) (hkinds : t.fault.kinds = s.fault.kinds)
    (hshow : t.showUnit = s.showUnit) (hservice : t.serviceUnit = s.serviceUnit)
    (hmembers : ∀ c : ChannelId, t.drive.strikes[c].group = s.drive.strikes[c].group) : Undisturbed s t where
  windows := by rw [hpitch]
  groups := by rw [hpitch]
  lanes := by rw [hpitch]
  membership := hmembers
  short := by rw [hkinds]
  show_ := Nat.le_of_eq (congrArg (·.buffers.length) hshow)
  service := Nat.le_of_eq (congrArg (·.buffers.length) hservice)

theorem Undisturbed.of_same (hpitch : t.pitch = s.pitch) (hkinds : t.fault.kinds = s.fault.kinds)
    (hshow : t.showUnit = s.showUnit) (hservice : t.serviceUnit = s.serviceUnit)
    (hstrikes : t.drive.strikes = s.drive.strikes) : Undisturbed s t :=
  .of_members hpitch hkinds hshow hservice fun c => by rewrite [hstrikes]; rfl

theorem updSlot_undisturbed (k : SlotId) (f : Slot → Slot) (s : State) : Undisturbed s (updSlot k f s) :=
  .of_same rfl rfl rfl rfl rfl

theorem updStrike_undisturbed (c : ChannelId) (f : StrikeChannel → StrikeChannel) (s : State)
    (h : ∀ x, (f x).group = x.group := by exact fun _ => rfl) : Undisturbed s (updStrike c f s) := by
  refine .of_members rfl rfl rfl rfl fun d => ?_
  rw [updStrike_drive_strikes, upd_get]
  split
  · exact h _
  · rfl

/-- Every channel at once. -/
theorem mapAll_undisturbed {f : StrikeChannel → StrikeChannel} (h : ∀ x, (f x).group = x.group)
    (hpitch : t.pitch = s.pitch) (hkinds : t.fault.kinds = s.fault.kinds)
    (hshow : t.showUnit = s.showUnit) (hservice : t.serviceUnit = s.serviceUnit)
    (hstrikes : t.drive.strikes = mapAll f s.drive.strikes) : Undisturbed s t :=
  .of_members hpitch hkinds hshow hservice fun c => by rw [hstrikes, mapAll_get]; exact h _

theorem setFlag_undisturbed (f : AttentionFlag) (s : State) : Undisturbed s (setFlag f s) := .of_calm (calm_setFlag f s)

theorem raise_undisturbed (o : Occurrence) (s : State) : Undisturbed s (raise o s) := .of_calm (calm_raise o s)

theorem foldl_undisturbed {α : Type} {f : State → α → State} (hf : ∀ t a, Undisturbed t (f t a)) (l : List α)
    (s : State) : Undisturbed s (l.foldl f s) := by
  induction l generalizing s with
  | nil => exact .refl s
  | cons a l ih => exact (hf s a).trans (ih _)

end

/-! #### Cues -/

section

variable (k : SlotId) (s : State)

theorem noticeLow_undisturbed : Undisturbed s (noticeLow k s) := by
  unfold noticeLow
  dsimp only
  split
  · exact setFlag_undisturbed _ s
  · exact .refl s

theorem noticeUnderrun_undisturbed : Undisturbed s (noticeUnderrun k s) := by
  unfold noticeUnderrun
  dsimp only
  split
  · exact setFlag_undisturbed _ s
  · exact .refl s

theorem withdraw_undisturbed : Undisturbed s (withdraw k s) :=
  mapAll_undisturbed (fun x => emptySlotOf_group x (.slot k)) rfl rfl rfl rfl rfl

theorem emptySlot_undisturbed : Undisturbed s (emptySlot k s) :=
  (withdraw_undisturbed k s).trans (updSlot_undisturbed k _ _)

theorem sound_undisturbed : Undisturbed s (sound k s) := by
  have hset : Undisturbed s (setSection .playing (updSlot k (fun x => { x with state := .sounding }) s)) :=
    .of_same rfl rfl rfl rfl rfl
  exact hset.trans (noticeLow_undisturbed k _)

theorem startSlot_undisturbed : Undisturbed s (startSlot k s) := by
  have hleft : Undisturbed s (leaveWaiting k s) := .of_same rfl rfl rfl rfl rfl
  exact hleft.trans ((updSlot_undisturbed k _ _).trans (sound_undisturbed k _))

theorem judgeWaiting_undisturbed : Undisturbed s (judgeWaiting s) := by
  unfold judgeWaiting
  split
  · exact startSlot_undisturbed _ s
  · exact .refl s

theorem freezeSounding_undisturbed : Undisturbed s (freezeSounding k s).2 :=
  (withdraw_undisturbed k s).trans (updSlot_undisturbed k _ _)

theorem freezeOccupant_undisturbed : Undisturbed s (freezeOccupant k s).2 := by
  unfold freezeOccupant
  split
  · exact .refl s
  · exact freezeSounding_undisturbed k s

theorem preempt_undisturbed : Undisturbed s (preempt k s) :=
  (freezeOccupant_undisturbed k s).trans (.of_same rfl rfl rfl rfl rfl)

theorem restoreDrive_undisturbed (r : ContextRecord) : Undisturbed s (restoreDrive r s) := by
  obtain ⟨-, -, e⟩ := restoreDrive_eq r s
  rw [e]
  exact .of_same rfl rfl rfl rfl rfl

theorem resume_undisturbed (r : ContextRecord) (rest : List ContextRecord) : Undisturbed s (resume r rest s) := by
  unfold resume
  refine .trans (t := { s with arb.stack := rest }) (.of_same rfl rfl rfl rfl rfl) ?_
  exact (restoreDrive_undisturbed _ r).trans ((updSlot_undisturbed r.slot _ _).trans
    ((updSlot_undisturbed r.slot _ _).trans ((setFlag_undisturbed .preempt _).trans (sound_undisturbed r.slot _))))

theorem handOn_undisturbed : Undisturbed s (handOn s) := by
  unfold handOn
  split <;> split
  · exact startSlot_undisturbed _ s
  · exact resume_undisturbed s _ _
  · exact startSlot_undisturbed _ s
  · exact .of_same rfl rfl rfl rfl rfl

theorem dropSlot_undisturbed : Undisturbed s (dropSlot k s) := by
  have hempty : ∀ t, t.pitch = s.pitch → t.fault = s.fault → t.showUnit = s.showUnit →
      t.serviceUnit = s.serviceUnit → t.drive = s.drive → Undisturbed s (emptySlot k t) :=
    fun t hp hf hl hv hd =>
      .trans (.of_same hp (by rw [hf]) hl hv (by rw [hd])) (emptySlot_undisturbed k t)
  have hheld : Undisturbed s (handOn (emptySlot k s)) :=
    (emptySlot_undisturbed k s).trans (handOn_undisturbed _)
  unfold dropSlot
  split
  · exact hheld
  · exact hheld
  · exact hempty (leaveStack k s) rfl rfl rfl rfl rfl
  · exact hempty (leaveWaiting k s) rfl rfl rfl rfl rfl
  · exact emptySlot_undisturbed k s
  · exact .refl s

theorem takeRole_undisturbed : Undisturbed s (takeRole k s) := by
  unfold takeRole
  split
  · exact (preempt_undisturbed _ s).trans (startSlot_undisturbed k _)
  · exact startSlot_undisturbed k s

theorem pauseSlot_undisturbed : Undisturbed s (pauseSlot k s) :=
  (freezeSounding_undisturbed k s).trans (.of_same rfl rfl rfl rfl rfl)

theorem continueSlot_undisturbed : Undisturbed s (continueSlot k s) :=
  (updSlot_undisturbed k _ s).trans (sound_undisturbed k _)

end

/-! #### Firings and commits -/

section

variable (s : State)

theorem arrive_undisturbed (f : Firing) : Undisturbed s (arrive f s) := by
  unfold arrive
  split
  case h_6 e _ =>
    refine .trans (t := setFlag .cueDone (removeFiring f s)) (.of_same rfl rfl rfl rfl rfl) ?_
    exact (emptySlot_undisturbed e.slot _).trans (handOn_undisturbed _)
  all_goals exact .of_same rfl rfl rfl rfl rfl

theorem arriveIfReached_undisturbed (placed : Option Firing) : Undisturbed s (arriveIfReached placed s) := by
  unfold arriveIfReached
  split
  · split
    · exact arriveInTurn_law (P := Undisturbed s) (fun f t _ h => h.trans (arrive_undisturbed t f)) _ s (.refl s)
    · exact .refl s
  · exact .refl s

theorem takeOffer_undisturbed (o : Offer) : Undisturbed s (takeOffer o s).1 := by
  have hcounted : ∀ stats, Undisturbed s { s with sched.stats := stats } := fun _ => .of_same rfl rfl rfl rfl rfl
  unfold takeOffer
  dsimp only
  split
  · exact (hcounted _).trans (raise_undisturbed _ _)
  · split
    · exact .of_same rfl rfl rfl rfl rfl
    · exact (hcounted _).trans (raise_undisturbed _ _)

theorem commitNote_undisturbed (ref : EntryRef) (pitch velocity : Nat) (cls : Fin 8) (due : Time) (x : Slot) :
    Undisturbed s (commitNote ref pitch velocity cls due x s).1 := by
  unfold commitNote
  split
  · refine .trans ?_ (raise_undisturbed _ _)
    exact .of_same rfl rfl rfl rfl rfl
  · exact takeOffer_undisturbed s _

theorem commitEffect_undisturbed (k : SlotId) (e : Event) (due : Time) :
    Undisturbed s (commitEffect k e due s).1 := by
  unfold commitEffect
  dsimp only
  split
  case h_1 => exact commitNote_undisturbed s _ _ _ _ _ _
  all_goals exact .of_same rfl rfl rfl rfl rfl

theorem commitEntry_undisturbed (k : SlotId) (e : Event) (due : Time) : Undisturbed s (commitEntry k e due s) := by
  unfold commitEntry
  exact (commitEffect_undisturbed s k e due).trans ((updSlot_undisturbed k _ _).trans
    ((noticeLow_undisturbed k _).trans ((noticeUnderrun_undisturbed k _).trans (arriveIfReached_undisturbed _ _))))

theorem commitHead_undisturbed (k : SlotId) : Undisturbed s (commitHead k s) := by
  unfold commitHead
  split
  · split
    · exact commitEntry_undisturbed s k _ _
    · exact .refl s
  · exact .refl s

end

/-! #### Pulses, phases and hushes -/

section

variable (c : ChannelId) (s : State)

theorem beginPulse_undisturbed (p : Pulse) (noCurrent : Bool) : Undisturbed s (beginPulse c p noCurrent s) := by
  have hopen : ∀ t, Undisturbed t (raiseOpen c p.width noCurrent t) := fun t => by
    unfold raiseOpen
    split
    · exact raise_undisturbed _ t
    · exact .refl t
  have hmeasured : ∀ t, Undisturbed t (recordBegin p t) := fun t => by
    unfold recordBegin
    split
    · exact .of_same rfl rfl rfl rfl rfl
    · exact .refl t
  exact (updStrike_undisturbed c (.beginAt s.now p noCurrent) s).trans
    ((hopen _).trans (hmeasured _))

theorem grantPulse_undisturbed (p : Pulse) (noCurrent : Bool) : Undisturbed s (grantPulse c p noCurrent s) := by
  unfold grantPulse
  split
  · exact beginPulse_undisturbed c s p noCurrent
  · exact updStrike_undisturbed c _ s
  · exact .refl s

theorem endRecovery_undisturbed (noCurrent : Bool) : Undisturbed s (endRecovery c noCurrent s) := by
  unfold endRecovery
  split
  · exact (updStrike_undisturbed c _ s).trans (beginPulse_undisturbed c _ _ noCurrent)
  · exact updStrike_undisturbed c _ s

theorem settleChannel_undisturbed (noCurrent : Bool) : Undisturbed s (settleChannel c noCurrent s) := by
  have hsettled : Undisturbed s
      (if s.now < s.drive.strikes[c].readyTime then updStrike c (fun x => { x with state := .recover }) s
        else endRecovery c noCurrent s) := by
    split
    · exact updStrike_undisturbed c _ s
    · exact endRecovery_undisturbed c s noCurrent
  unfold settleChannel
  split
  · exact .refl s
  · exact hsettled
  · exact hsettled

theorem changeRail_undisturbed (r : RailId) (f : Rail → Rail) : Undisturbed s (changeRail r f s) := by
  have hrail : Undisturbed s (updRail r f s) := .of_same rfl rfl rfl rfl rfl
  unfold changeRail raiseOverload
  split
  · exact hrail.trans (raise_undisturbed _ _)
  · exact hrail

theorem switchTable_undisturbed : Undisturbed s (switchTable s) := by
  unfold switchTable
  split
  · exact .of_same rfl rfl rfl rfl rfl
  · exact .refl s

theorem grant_undisturbed (v : BitVec 96) (f : Firing) (sh : Shot) : Undisturbed s (grant v f sh s) :=
  .trans (t := removeFiring f (updRail sh.rail (.charged sh.charge) s)) (.of_same rfl rfl rfl rfl rfl)
    (grantPulse_undisturbed _ _ _ _)

theorem walkGrants_undisturbed (v : BitVec 96) (n : Nat) (l : List Firing) : Undisturbed s (walkGrants v n l s) := by
  induction l generalizing n s with
  | nil => rw [walkGrants]; exact .refl s
  | cons f rest ih =>
    rw [walkGrants]
    split
    · exact ih s n
    · split
      · exact ih s n
      · split
        · exact .refl s
        · split
          · exact (grant_undisturbed s v f _).trans (ih _ _)
          · exact .refl s

theorem startPhase_undisturbed (v : BitVec 96) : Undisturbed s (startPhase v s) := by
  have hadmitted : ∀ t, Undisturbed t (admission v t) := fun t => by
    unfold admission
    split
    · exact walkGrants_undisturbed t _ _ _
    · exact .refl t
  have haccounted : ∀ t, Undisturbed t (accountRails t) :=
    foldl_undisturbed (fun t r => changeRail_undisturbed t r _) _
  refine .trans (t := { s with rail.lastPhaseStart := some s.partTime }) (.of_same rfl rfl rfl rfl rfl) ?_
  exact (switchTable_undisturbed _).trans ((haccounted _).trans (hadmitted _))

theorem removeTests_undisturbed : Undisturbed s (removeTests s) :=
  mapAll_undisturbed (fun x => dropTest_group x s.now) rfl rfl rfl rfl rfl

theorem completeIfDone_undisturbed : Undisturbed s (completeIfDone s) := by
  unfold completeIfDone completeHush
  split
  · dsimp only
    split <;> exact .of_same rfl rfl rfl rfl rfl
  · exact .refl s

theorem beginHush_undisturbed (target : HushTarget) (halt : Bool) : Undisturbed s (beginHush target halt s) := by
  have hstart : ∀ t : State, Undisturbed t (hushStart t) := fun t =>
    mapAll_undisturbed (f := fun c => { c.cut t.now with nextPulse := none }) (fun x => cut_group x _)
      rfl rfl rfl rfl rfl
  refine .trans (t := { s with sect := s.sect.hushBegun s.now target halt }) (.of_same rfl rfl rfl rfl rfl) ?_
  exact (hstart _).trans (completeIfDone_undisturbed _)

end

end Sys2Proof.Machine

namespace Sys2Proof.Machine

open Safety

/-! #### Memberships (03 R54, R55) -/

/-- The membership of every channel of a list is written, and nothing else. -/
theorem setMembership_eq (v : Option GroupId) (l : List ChannelId) (s : State) :
    (∀ c : ChannelId, (setMembership v l s).drive.strikes[c] =
      if c ∈ l then { s.drive.strikes[c] with group := v } else s.drive.strikes[c]) ∧
    setMembership v l s = { s with drive := { s.drive with strikes := (setMembership v l s).drive.strikes } } := by
  induction l generalizing s with
  | nil => exact ⟨fun _ => rfl, rfl⟩
  | cons d rest ih =>
    obtain ⟨hstrikes, hrest⟩ := ih (updStrike d (fun x => { x with group := v }) s)
    refine ⟨fun c => (hstrikes c).trans ?_, hrest⟩
    rw [updStrike_drive_strikes, upd_get]
    by_cases hd : d = c
    · subst hd
      rw [if_pos rfl, if_pos List.mem_cons_self]
      split <;> rfl
    · rw [if_neg hd]
      simp only [List.mem_cons, Ne.symm hd, false_or]

/-- What SET GROUP writes (03 R55): the group, and the memberships of its old and its new list. -/
def regrouped (g : GroupId) (new : Group) (s : State) : State :=
  setMembership (some g) new.members (setMembership none s.pitch.groups[g].members
    { s with pitch.groups := upd s.pitch.groups g fun _ => new })

theorem regrouped_eq (g : GroupId) (new : Group) (s : State) :
    (∀ c : ChannelId, (regrouped g new s).drive.strikes[c] =
      if c ∈ new.members then { s.drive.strikes[c] with group := some g }
      else if c ∈ s.pitch.groups[g].members then { s.drive.strikes[c] with group := none }
      else s.drive.strikes[c]) ∧
    regrouped g new s =
      { s with
        pitch := { s.pitch with groups := upd s.pitch.groups g fun _ => new }
        drive := { s.drive with strikes := (regrouped g new s).drive.strikes } } := by
  unfold regrouped
  generalize hu : setMembership none s.pitch.groups[g].members
    { s with pitch.groups := upd s.pitch.groups g fun _ => new } = u
  obtain ⟨hold, hkept⟩ := setMembership_eq none s.pitch.groups[g].members
    { s with pitch.groups := upd s.pitch.groups g fun _ => new }
  obtain ⟨hnew, hall⟩ := setMembership_eq (some g) new.members u
  rw [hu] at hold hkept
  refine ⟨fun c => (hnew c).trans ?_, hall.trans ?_⟩
  · rw [hold c]
    split
    · split <;> rfl
    · rfl
  · rw [hkept]

/-- The membership that SET GROUP leaves a channel (03 R55). -/
theorem regrouped_group (g : GroupId) (new : Group) (s : State) (c : ChannelId) :
    (regrouped g new s).drive.strikes[c].group =
      if c ∈ new.members then some g
      else if c ∈ s.pitch.groups[g].members then none else s.drive.strikes[c].group := by
  rw [(regrouped_eq g new s).1 c]
  split
  · rfl
  · split <;> rfl

/-! #### Every change

`law_of_undisturbed` is the induction over the changes of a step, done once: a law that depends on no more than
`Undisturbed` keeps is left with the requests that write the pitch map, the acceptance of a frame, and power-on. -/

theorem law_of_undisturbed {law : State → Prop} (hkept : ∀ s t, Undisturbed s t → law s → law t)
    (hpowerOn : ∀ a r x y n p, law (State.powerOn a r x y n p))
    (haccept : ∀ l b s, (s.unit l).bufferFree = true → law s → law (acceptFrame l b s))
    (hwindow : ∀ i (w : Window) s, w.valid = true → overlapWith i w s.pitch = none → law s →
      law { s with pitch.windows := upd s.pitch.windows i fun _ => w })
    (hgroup : ∀ g (new : Group) s, memberElsewhere g s.drive new.members = none → law s →
      law (regrouped g new s))
    (hlanes : ∀ (v : Vector Lane 8) s, v[(0 : Fin 8)] = 0 → law s → law { s with pitch.lanes := v })
    (s t : State) (h : Change s t) (hs : law s) : law t := by
  induction h with
  | refl => exact hs
  | trans _ _ ih1 ih2 => exact ih2 (ih1 hs)
  | calm h => exact hkept _ _ (.of_calm h) hs
  | powerOn a r x y n p => exact hpowerOn a r x y n p
  | accept l b s h => exact haccept l b s h hs
  | window i w s hv ho => exact hwindow i w s hv ho hs
  | group g new s hm => exact hgroup g new s hm hs
  | lanes v s hv => exact hlanes v s hv hs
  | openCue k c s => exact hkept _ _ (updSlot_undisturbed k _ s) hs
  | events k es s => exact hkept _ _ (updSlot_undisturbed k _ s) hs
  | slotDetails k g s => exact hkept _ _ (updSlot_undisturbed k g s) hs
  | takeRole k s => exact hkept _ _ (takeRole_undisturbed k s) hs
  | pause k s => exact hkept _ _ (pauseSlot_undisturbed k s) hs
  | continue_ k s => exact hkept _ _ (continueSlot_undisturbed k s) hs
  | drop k s => exact hkept _ _ (dropSlot_undisturbed k s) hs
  | judge s => exact hkept _ _ (judgeWaiting_undisturbed s) hs
  | commit k s => exact hkept _ _ (commitHead_undisturbed s k) hs
  | arrive f s => exact hkept _ _ (arrive_undisturbed s f) hs
  | test sh s =>
    refine hkept (placeFiring s.now (.test sh) s) _ (arrive_undisturbed _ _) (hkept _ _ ?_ hs)
    exact .of_same rfl rfl rfl rfl rfl
  | railSetting r limit drain s => exact hkept _ _ (changeRail_undisturbed s r _) hs
  | channel c g noCurrent s =>
    refine hkept _ _ (.trans ?_ (settleChannel_undisturbed c _ noCurrent)) hs
    exact updStrike_undisturbed c (.configured g) s fun x => configured_group x g
  | takeOut c s => exact hkept _ _ (updStrike_undisturbed c _ s fun x => cut_group x _) hs
  | short c s => exact hkept _ _ (updStrike_undisturbed c _ s fun x => cut_group x _) hs
  | unfence c s => exact hkept _ _ (updStrike_undisturbed c _ s) hs
  | pulseEnd c t s => exact hkept _ _ (updStrike_undisturbed c _ s) hs
  | recoveryEnd c noCurrent s => exact hkept _ _ (endRecovery_undisturbed c s noCurrent) hs
  | phase noCurrent s => exact hkept _ _ (startPhase_undisturbed s noCurrent) hs
  | hush target halt s => exact hkept _ _ (beginHush_undisturbed s target halt) hs
  | complete s => exact hkept _ _ (completeIfDone_undisturbed s) hs
  | removeTests s => exact hkept _ _ (removeTests_undisturbed s) hs
  | takeover s => exact hkept s _ (.of_same (by simp) rfl (by simp) (by simp) (by simp)) hs
  | enterWaiting _ s | railLatch _ s | leave _ s | halt s | toHalted s | toQuiet s =>
    exact hkept s _ (.of_same rfl rfl rfl rfl rfl) hs

/-! #### Windows (03 R49, R50) -/

theorem overlaps_comm (v w : Window) : v.overlaps w = w.overlaps v := by
  rw [Bool.eq_iff_iff]
  simp only [Window.overlaps, Bool.and_eq_true, decide_eq_true_eq]
  exact ⟨fun ⟨⟨⟨hv, hw⟩, h1⟩, h2⟩ => ⟨⟨⟨hw, hv⟩, h2⟩, h1⟩, fun ⟨⟨⟨hw, hv⟩, h1⟩, h2⟩ => ⟨⟨⟨hv, hw⟩, h2⟩, h1⟩⟩

theorem overlapWith_none_iff {i : WindowId} {w : Window} {p : PitchMap} :
    overlapWith i w p = none ↔ ∀ j : WindowId, j ≠ i → p.windows[j].overlaps w = false := by
  unfold overlapWith
  rw [List.find?_eq_none]
  simp [allFin]

theorem updWindow_valid {i : WindowId} {w : Window} {s : State} (hw : w.valid = true) (h : WindowsValid s) :
    WindowsValid { s with pitch.windows := upd s.pitch.windows i fun _ => w } := by
  intro j
  dsimp only
  rw [upd_get]
  split
  · exact hw
  · exact h j

theorem updWindow_apart {i : WindowId} {w : Window} {s : State} (ho : overlapWith i w s.pitch = none)
    (h : WindowsApart s) : WindowsApart { s with pitch.windows := upd s.pitch.windows i fun _ => w } := by
  have hnew := overlapWith_none_iff.mp ho
  intro j k hjk
  dsimp only
  rw [upd_get, upd_get]
  by_cases hj : i = j
  · subst hj
    rw [if_pos rfl, if_neg hjk, overlaps_comm]
    exact hnew k hjk.symm
  · rw [if_neg hj]
    split
    · next hk => subst hk; exact hnew j hjk
    · exact h j k hjk

/-! #### Channels in another group (03 R54) -/

section

variable {g : GroupId} {d : DriveUnit} {l : List ChannelId}

theorem memberElsewhere_cons_own {c : ChannelId} (hc : ∀ h, d.strikes[c].group = some h → h = g) :
    memberElsewhere g d (c :: l) = memberElsewhere g d l := by
  rw [memberElsewhere]
  split
  · next h hh => exact if_pos (hc h hh)
  · rfl

theorem memberElsewhere_cons_other {c : ChannelId} {h : GroupId} (hc : d.strikes[c].group = some h) (hg : h ≠ g) :
    memberElsewhere g d (c :: l) = some (c, h) := by
  rw [memberElsewhere, hc]
  exact if_neg hg

/-- No channel of a list is in another group. -/
theorem memberElsewhere_none_iff :
    memberElsewhere g d l = none ↔ ∀ c ∈ l, ∀ h, d.strikes[c].group = some h → h = g := by
  induction l with
  | nil => simp [memberElsewhere]
  | cons c rest ih =>
    rw [List.forall_mem_cons, ← ih]
    by_cases hc : ∃ h, d.strikes[c].group = some h ∧ h ≠ g
    · obtain ⟨h, hc, hg⟩ := hc
      rw [memberElsewhere_cons_other hc hg]
      exact iff_of_false nofun fun hall => hg (hall.1 h hc)
    · have hall : ∀ h, d.strikes[c].group = some h → h = g := by simpa using hc
      rw [memberElsewhere_cons_own hall]
      exact (and_iff_right hall).symm

/-- The first channel of a list that is in another group (03 R54). -/
theorem memberElsewhere_first {h : GroupId} {front behind : List ChannelId} {c : ChannelId}
    (hfront : memberElsewhere g d front = none) (hc : d.strikes[c].group = some h) (hg : h ≠ g) :
    memberElsewhere g d (front ++ c :: behind) = some (c, h) := by
  induction front with
  | nil => exact memberElsewhere_cons_other hc hg
  | cons x front ih =>
    rw [memberElsewhere_none_iff, List.forall_mem_cons, ← memberElsewhere_none_iff] at hfront
    rw [List.cons_append, memberElsewhere_cons_own hfront.1]
    exact ih hfront.2

end

theorem regrouped_membership {g : GroupId} {new : Group} {s : State}
    (hnone : memberElsewhere g s.drive new.members = none) (h : MembershipAgrees s) :
    MembershipAgrees (regrouped g new s) := by
  have hgroups : (regrouped g new s).pitch.groups = upd s.pitch.groups g fun _ => new :=
    congrArg (·.pitch.groups) (regrouped_eq g new s).2
  rw [memberElsewhere_none_iff] at hnone
  intro k c
  rw [hgroups, upd_get, regrouped_group]
  by_cases hk : g = k
  · subst hk
    rw [if_pos rfl]
    split
    · next hnew => exact iff_of_true hnew rfl
    · next hnew =>
      split
      · exact iff_of_false hnew nofun
      · next hold => exact iff_of_false hnew (mt (h g c).mpr hold)
  · rw [if_neg hk, h k c]
    have hother : some g ≠ some k := fun e => hk (Option.some.inj e)
    split
    · next hnew => exact iff_of_false (fun hc => hk (hnone c hnew k hc).symm) hother
    · split
      · next hold => exact iff_of_false ((h g c).mp hold ▸ hother) nofun
      · exact Iff.rfl

/-! #### The laws of the pitch map -/

/-- The laws of O58 together. -/
structure PitchMapLaw (s : State) : Prop where
  valid : WindowsValid s
  apart : WindowsApart s
  members : MembershipAgrees s

theorem PitchMapLaw.congr {s t : State} (hs : PitchMapLaw s) (hwindows : t.pitch.windows = s.pitch.windows)
    (hgroups : t.pitch.groups = s.pitch.groups)
    (hmembers : ∀ c : ChannelId, t.drive.strikes[c].group = s.drive.strikes[c].group) : PitchMapLaw t where
  valid := by rw [WindowsValid, hwindows]; exact hs.valid
  apart := by rw [WindowsApart, hwindows]; exact hs.apart
  members := by simp only [MembershipAgrees, hgroups, hmembers]; exact hs.members

theorem powerOn_pitchMapLaw (a : BitVec 5) (r : BitVec 2) (x y : Bool) (n : Nat) (p : List Instr) :
    PitchMapLaw (State.powerOn a r x y n p) where
  valid i := by rw [powerOn_window]; rfl
  apart i j _ := by rw [powerOn_window, powerOn_window]; rfl
  members g c := by rw [powerOn_group, powerOn_strike]; exact ⟨(nomatch ·), (nomatch ·)⟩

/-- Settles O58: only SET WINDOW and SET GROUP touch what the laws speak of, and both check the law first. -/
theorem pitchMapKept : Obligations.PitchMapKept := by
  unfold Obligations.PitchMapKept
  intro s t hvalid hapart hmembers hstep
  have hlaw : PitchMapLaw t := by
    refine law_of_changes (law_of_undisturbed ?kept powerOn_pitchMapLaw ?accept ?window ?group ?lanes) s t
      ⟨hvalid, hapart, hmembers⟩ hstep
    case kept => exact fun s t h hs => hs.congr h.windows h.groups h.membership
    case accept =>
      intro l b s _ hs
      have hpitch : (acceptFrame l b s).pitch = s.pitch := by simp [acceptFrame]
      have hdrive : (acceptFrame l b s).drive = s.drive := by simp [acceptFrame]
      exact hs.congr (by rw [hpitch]) (by rw [hpitch]) (fun c => by rw [hdrive])
    case window =>
      exact fun i w s hw ho hs => ⟨updWindow_valid hw hs.valid, updWindow_apart ho hs.apart, hs.members⟩
    case group =>
      intro g new s hnone hs
      have hwindows : (regrouped g new s).pitch.windows = s.pitch.windows :=
        congrArg (·.pitch.windows) (regrouped_eq g new s).2
      refine ⟨?_, ?_, regrouped_membership hnone hs.members⟩
      · rw [WindowsValid, hwindows]; exact hs.valid
      · rw [WindowsApart, hwindows]; exact hs.apart
    case lanes => exact fun v s _ hs => hs.congr rfl rfl fun _ => rfl
  exact ⟨hlaw.valid, hlaw.apart, hlaw.members⟩

/-! #### O60: the small laws that single changes keep -/

/-- The laws of O60 that every change of a step keeps. The fourth holds at the end of an event only. -/
structure SmallLaw (s : State) : Prop where
  short : ShortIsFatal s
  lanes : ClassZeroInLaneZero s
  buffers : BuffersBounded s

theorem SmallLaw.undisturbed {s t : State} (hs : SmallLaw s) (h : Undisturbed s t) : SmallLaw t where
  short := h.short.trans hs.short
  lanes := by rw [ClassZeroInLaneZero, h.lanes]; exact hs.lanes
  buffers := ⟨Nat.le_trans h.show_ hs.buffers.1, Nat.le_trans h.service hs.buffers.2⟩

/-- A frame enters a free buffer (09 R170, R173). -/
theorem SmallLaw.acceptFrame {l : Link} {b : BufferedFrame} {s : State} (hs : SmallLaw s)
    (hfree : (s.unit l).bufferFree = true) : SmallLaw (acceptFrame l b s) where
  short := by
    have hfault : (Machine.acceptFrame l b s).fault = s.fault := by simp [Machine.acceptFrame]
    rw [ShortIsFatal, hfault]
    exact hs.short
  lanes := by
    have hpitch : (Machine.acceptFrame l b s).pitch = s.pitch := by simp [Machine.acceptFrame]
    rw [ClassZeroInLaneZero, hpitch]
    exact hs.lanes
  buffers := by
    obtain ⟨hshow, hservice⟩ := hs.buffers
    have hlength : (s.unit l).buffers.length < 2 := of_decide_eq_true hfree
    have hstored : ((s.unit l).store s.now b).buffers.length = (s.unit l).buffers.length + 1 :=
      List.length_append
    cases l with
    | showLink => exact ⟨hstored ▸ hlength, hservice⟩
    | servicePort => exact ⟨hshow, hstored ▸ hlength⟩

theorem SmallLaw.regrouped {g : GroupId} {new : Group} {s : State} (hs : SmallLaw s) :
    SmallLaw (regrouped g new s) := by
  rw [(regrouped_eq g new s).2]
  exact ⟨hs.short, hs.lanes, hs.buffers⟩

theorem step_smallLaw {s t : State} (hs : SmallLaw s) (h : step s = .next t) : SmallLaw t := by
  refine law_of_changes (law_of_undisturbed ?kept ?powerOn ?accept ?window ?group ?lanes) s t hs h
  case kept => exact fun _ _ h hs => hs.undisturbed h
  case powerOn => exact fun _ _ _ _ _ _ => ⟨rfl, rfl, Nat.zero_le _, Nat.zero_le _⟩
  case accept => exact fun _ _ _ hfree hs => hs.acceptFrame hfree
  case window => exact fun _ _ _ _ _ hs => ⟨hs.short, hs.lanes, hs.buffers⟩
  case group => exact fun _ _ _ _ hs => hs.regrouped
  case lanes => exact fun _ _ hv hs => ⟨hs.short, hv, hs.buffers⟩

/-! #### O60: no fatal cause left undelivered (08 R149)

Every event ends by delivering the cause that it raised, whatever its own steps were. -/

theorem fatalCause_fatalDue (s : State) : (fatalCause s).fault.fatalDue = s.fault.fatalDue := by
  have hcomplete : ∀ t : State, (completeIfDone t).fault.fatalDue = t.fault.fatalDue := fun t => by
    unfold completeIfDone completeHush
    split
    · dsimp only
      split <;> rfl
    · rfl
  unfold fatalCause
  split
  · rfl
  · exact hcomplete _

theorem settle_delivers (before after : State) : FatalDelivered (settle before after) := by
  unfold settle deliverFatal
  split
  · exact fatalCause_fatalDue _
  · next h => exact Bool.not_eq_true _ |>.mp h

/-- The outcome of a command in `s`: nothing, or some steps and the end of the event. -/
def OneEvent (s : State) (o : Host.Outcome State Fault Refusal) : Prop :=
  o = .next s ∨ ∃ u, o = .next (settle s u)

section

variable (s : State)

theorem oneEvent_event (body : State → State) : OneEvent s (event body s) := .inr ⟨_, rfl⟩

theorem oneEvent_when (b : Bool) (body : State → State) : OneEvent s (if b then event body s else .next s) := by
  split
  · exact oneEvent_event s body
  · exact .inl rfl

theorem oneEvent_request (kind : Byte) (p : Permission) (f : Frame) (decode : Time → List Byte → Option Action) :
    OneEvent s (takeTimedRequest kind p f decode s) := by
  unfold takeTimedRequest
  split
  · exact .inr ⟨_, rfl⟩
  · exact .inl rfl

/-- A request's meaning is one event, whatever its kind: the cases are the characters and the part's own events. -/
theorem exec_oneEvent {c : Instr} (h : ∀ a r x y, c ≠ .powerOn a r x y) : OneEvent s (exec c s) := by
  cases c with
  | powerOn a r x y => exact absurd rfl (h a r x y)
  | addressCharacter l v =>
    change OneEvent s (execAddressCharacter l v s)
    unfold execAddressCharacter
    split
    · exact .inl rfl
    · exact oneEvent_event s _
  | dataCharacter l v =>
    change OneEvent s (execDataCharacter l v s)
    unfold execDataCharacter
    split
    · exact .inl rfl
    · split <;> exact oneEvent_event s _
  | framingError l =>
    change OneEvent s (execFramingError l s)
    unfold execFramingError
    split
    · exact .inl rfl
    · split
      · exact oneEvent_event s _
      · exact oneEvent_event s _
      · exact .inl rfl
  | unknownRequest kind f =>
    change OneEvent s (execUnknownRequest kind f s)
    unfold execUnknownRequest
    split
    · exact .inl rfl
    · exact oneEvent_request s _ _ _ _
  | lineReturnToMark | markToSpace | shortReport => exact oneEvent_event s _
  | breakCondition l => exact oneEvent_when s (breakDue s l) _
  | longBreak => exact oneEvent_when s (longBreakDue s) _
  | replyTransmissionEnd l => exact oneEvent_when s (transmissionDone s l) _
  | phaseStart v => exact oneEvent_when s (phaseDue s) _
  | recoveryEnd k v => exact oneEvent_when s (recoveryDue s k) _
  | commit | fireTimeArrival | lateExpiry | pulseEnd | rampTimerExpiry | pendantSilenceExpiry =>
    simp only [exec, execCommit, execFireTimeArrival, execLateExpiry, execPulseEnd, execRampTimerExpiry,
      execPendantSilenceExpiry]
    split
    · exact oneEvent_event s _
    · exact .inl rfl
  | _ => exact oneEvent_request s _ _ _ _

end

theorem exec_delivers {c : Instr} {s t : State} (hs : FatalDelivered s) (h : exec c s = .next t) :
    FatalDelivered t := by
  by_cases hp : ∃ a r x y, c = .powerOn a r x y
  · obtain ⟨a, r, x, y, rfl⟩ := hp
    cases h
    rfl
  · rcases exec_oneEvent s (c := c) (fun a r x y e => hp ⟨a, r, x, y, e⟩) with he | ⟨u, he⟩
    · cases he.symm.trans h
      exact hs
    · cases he.symm.trans h
      exact settle_delivers s u

theorem step_delivers {s t : State} (hs : FatalDelivered s) (h : step s = .next t) : FatalDelivered t := by
  unfold step at h
  split at h
  · next c rest _ => exact exec_delivers (s := { s with pending := rest }) hs h
  · unfold idle at h
    split at h
    · exact exec_delivers (s := countFree s) hs h
    · cases h
      split <;> exact hs

/-- Settles O60: the cause by the end of the event, the other three by the changes that a step is made of. -/
theorem smallLawsKept : Obligations.SmallLawsKept := by
  unfold Obligations.SmallLawsKept
  intro s t hfatal hshort hlanes hbuffers hstep
  obtain ⟨hshort, hlanes, hbuffers⟩ := step_smallLaw ⟨hshort, hlanes, hbuffers⟩ hstep
  exact ⟨step_delivers hfatal hstep, hshort, hlanes, hbuffers⟩

end Sys2Proof.Machine

namespace Sys2Proof.Machine

open Safety

/-! ### O29: translation of a pitch (03 R51) -/

/-- The lowest number of a table that passes a test. -/
theorem find?_allFin_of_lowest {n : Nat} {p : Fin n → Bool} {i : Fin n} (hi : p i = true)
    (hlow : ∀ j, p j = true → i ≤ j) : (allFin n).find? p = some i := by
  refine List.find?_eq_some_iff_getElem.mpr ⟨hi, i.val, by simp [allFin], by simp [allFin], fun j hj => ?_⟩
  rw [Bool.not_eq_true']
  refine Bool.eq_false_iff.mpr fun hp => ?_
  have hle := hlow _ hp
  simp only [allFin, List.getElem_finRange, Fin.le_def, Fin.val_cast] at hle
  omega

theorem holds_iff (w : Window) (q : Int) :
    w.holds q = true ↔ w.enabled = true ∧ (w.firstPitch : Int) ≤ q ∧ q < (w.firstPitch : Int) + w.count := by
  simp [Window.holds, and_assoc]

section

variable {p : PitchMap} {q : Int}

theorem translate_outOfRange (h : q < 0 ∨ 127 < q) : translate p q = .outOfRange := if_pos h

theorem translate_noWindow (h0 : 0 ≤ q) (h127 : q ≤ 127) (h : ∀ i : WindowId, p.windows[i].holds q = false) :
    translate p q = .noWindow := by
  have hnone : (allFin 8).find? (fun i => p.windows[i].holds q) = none := by simpa [allFin] using h
  rw [translate, if_neg (by omega), hnone]

/-- The pitch lies in one window alone, which maps it to group `g`. -/
theorem translate_held {i : WindowId} {g : GroupId} (h0 : 0 ≤ q) (h127 : q ≤ 127) (hi : p.windows[i].holds q = true)
    (hu : ∀ j : WindowId, p.windows[j].holds q = true → j = i) (hg : p.windows[i].groupOf q = g.val) :
    translate p q = if p.groups[g].members.isEmpty then .noMembers i g else .mapped i g := by
  have hsome : (allFin 8).find? (fun i => p.windows[i].holds q) = some i :=
    find?_allFin_of_lowest hi fun j hj => Nat.le_of_eq (congrArg Fin.val (hu j hj)).symm
  have hlt : p.windows[i].groupOf q < 48 := hg ▸ g.isLt
  have hgroup : (⟨p.windows[i].groupOf q, hlt⟩ : GroupId) = g := Fin.ext hg
  rw [translate, if_neg (by omega), hsome]
  refine (dif_pos hlt).trans ?_
  exact congrArg (fun g : GroupId => if p.groups[g].members.isEmpty then Translation.noMembers i g else .mapped i g)
    hgroup

end

/-- Settles O29: no window holds the pitch, or the one that does gives the group. -/
theorem pitchTranslation : Obligations.PitchTranslation := by
  unfold Obligations.PitchTranslation
  intro p q holds
  have hholds : ∀ i : WindowId, p.windows[i].holds q = true ↔ holds i := fun i => holds_iff _ q
  refine ⟨translate_outOfRange, fun h0 h127 hnone => translate_noWindow h0 h127 fun i => ?_,
    fun i g h0 h127 hi hu hg => ?_⟩
  · exact Bool.eq_false_iff.mpr (mt (hholds i).mp (hnone i))
  · have hgroup : p.windows[i].groupOf q = g.val := by
      have hfirst := hi.2.1
      unfold Window.groupOf
      omega
    have heq := translate_held h0 h127 ((hholds i).mpr hi) (fun j hj => hu j ((hholds j).mp hj)) hgroup
    exact ⟨fun hempty => by rw [heq, hempty]; rfl,
      fun hsome => heq.trans (if_neg (by rwa [List.isEmpty_iff]))⟩

/-! ### O30: the curves (03 R58) -/

/-- Between the ends of its segment the line does not fall below 0, so no rounding to 0 hides its value. -/
theorem interpolate_eq {a b v va vb : Nat} (ha : va ≤ v) (hb : v ≤ vb) :
    (interpolate a b v va vb : Int) = a + (((b : Int) - a) * ((v : Int) - va)).tdiv ((vb : Int) - va) := by
  refine Int.toNat_of_nonneg ?_
  rcases Nat.le_total a b with h | h
  · have hrise : 0 ≤ (((b : Int) - a) * ((v : Int) - va)).tdiv ((vb : Int) - va) :=
      Int.tdiv_nonneg (Int.mul_nonneg (by omega) (by omega)) (by omega)
    omega
  · have hneg : ((b : Int) - a) * ((v : Int) - va) = -(((a : Int) - b) * ((v : Int) - va)) := by
      rw [← Int.neg_mul, Int.neg_sub]
    have hle : ((a : Int) - b) * ((v : Int) - va) ≤ ((a : Int) - b) * ((vb : Int) - va) :=
      Int.mul_le_mul_of_nonneg_left (by omega) (by omega)
    have hfall : (((a : Int) - b) * ((v : Int) - va)).tdiv ((vb : Int) - va) ≤ (a : Int) - b := by
      rcases Nat.eq_or_lt_of_le (Nat.le_trans ha hb) with h0 | h0
      · have hzero : (vb : Int) - va = 0 := by omega
        rw [hzero, Int.tdiv_zero]
        omega
      · rw [Int.tdiv_eq_ediv_of_nonneg (Int.mul_nonneg (by omega) (by omega))]
        exact Int.ediv_le_of_le_mul (by omega) hle
    rw [hneg, Int.neg_tdiv]
    omega

/-- Each of the two curves of a record, on the segment that holds the velocity. -/
theorem curveAt_eq {curve : Curve} (value : CurvePoint → Nat) {v va vb : Nat} {lower upper : CurvePoint} (h1 : 1 ≤ v)
    (h127 : v ≤ 127) (h32 : v < 32 → lower = curve[0] ∧ upper = curve[1] ∧ va = 1 ∧ vb = 32)
    (h64 : 32 ≤ v → v < 64 → lower = curve[1] ∧ upper = curve[2] ∧ va = 32 ∧ vb = 64)
    (h96 : 64 ≤ v → v < 96 → lower = curve[2] ∧ upper = curve[3] ∧ va = 64 ∧ vb = 96)
    (hlast : 96 ≤ v → lower = curve[3] ∧ upper = curve[4] ∧ va = 96 ∧ vb = 127) :
    (curveAt curve value v : Int) =
      value lower + (((value upper : Int) - value lower) * ((v : Int) - va)).tdiv ((vb : Int) - va) := by
  unfold curveAt
  split
  · next h =>
    obtain ⟨rfl, rfl, rfl, rfl⟩ := h32 h
    exact interpolate_eq h1 (by omega)
  · split
    · next h =>
      obtain ⟨rfl, rfl, rfl, rfl⟩ := h64 (by omega) h
      exact interpolate_eq (by omega) (by omega)
    · split
      · next h =>
        obtain ⟨rfl, rfl, rfl, rfl⟩ := h96 (by omega) h
        exact interpolate_eq (by omega) (by omega)
      · next h =>
        obtain ⟨rfl, rfl, rfl, rfl⟩ := hlast (by omega)
        exact interpolate_eq (by omega) h127

/-- Settles O30, for the width and the flight time alike. -/
theorem curveInterpolation : Obligations.CurveInterpolation := by
  unfold Obligations.CurveInterpolation
  intro curve v h1 h127 lower upper va vb h32 h64 h96 hlast
  exact ⟨curveAt_eq CurvePoint.width h1 h127 h32 h64 h96 hlast, curveAt_eq CurvePoint.flight h1 h127 h32 h64 h96 hlast⟩

/-! ### O31: SET WINDOW (03 R48, R50) -/

theorem configurable_iff (s : State) : s.configurable = true ↔ Configurable s := by
  unfold State.configurable Configurable
  cases s.sect.state <;> simp

theorem exists_boolByte {b : Byte} (h : b.toNat ≤ 1) : ∃ e, b = boolByte e := by
  rcases Nat.le_one_iff_eq_zero_or_eq_one.mp h with h | h
  · exact ⟨false, eq_ofNat_of_toNat_eq h⟩
  · exact ⟨true, eq_ofNat_of_toNat_eq h⟩

theorem valid_iff (w : Window) :
    w.valid = true ↔ w.firstPitch ≤ 127 ∧ 1 ≤ w.count ∧ w.count ≤ 128 ∧ w.firstGroup ≤ 47 ∧
      w.firstPitch + w.count ≤ 128 ∧ w.firstGroup + w.count ≤ 48 := by
  simp [Window.valid, and_assoc]

section

variable {f : Frame} {s t u : State} {window enabled first count group : Byte} {code : ReplyCode} {data : List Byte}

theorem setWindow_answers (h : Offered 0x30 f s t) (hf : f.fields = [window, enabled, first, count, group])
    (ha : setWindowAct f.link window enabled first count group t = (u, ⟨code, data⟩)) :
    Answers 0x30 (.setWindow f) f s code data u :=
  answers_addressed (decode := setWindowBody f.link) h rfl (addressed_allows h) (by rw [hf]; rfl) ha

/-- A window and a flag in range: the range of the other fields, and then the section and the other windows. -/
theorem setWindowAct_eq {i : WindowId} {e : Bool} (hn : ¬ FromShowInService f t) (hi : window.toNat = i.val)
    (he : enabled = boolByte e) :
    setWindowAct f.link window enabled first count group t =
      let w : Window :=
        { enabled := e, firstPitch := first.toNat, count := count.toNat, firstGroup := group.toNat }
      if w.valid then replaceWindow i w t else (t, ⟨.range, []⟩) := by
  rw [setWindowAct, unlessTaken_free hn, toFin_eq hi, he, yesNo_boolByte]
  dsimp only
  split <;> rfl

theorem setWindowAct_range (hn : ¬ FromShowInService f t)
    (hr : ¬ (window.toNat ≤ 7 ∧ enabled.toNat ≤ 1 ∧ first.toNat ≤ 127 ∧ 1 ≤ count.toNat ∧ count.toNat ≤ 128 ∧
      group.toNat ≤ 47 ∧ first.toNat + count.toNat ≤ 128 ∧ group.toNat + count.toNat ≤ 48)) :
    setWindowAct f.link window enabled first count group t = (t, ⟨.range, []⟩) := by
  by_cases hwindow : window.toNat ≤ 7
  · by_cases henabled : enabled.toNat ≤ 1
    · obtain ⟨e, he⟩ := exists_boolByte henabled
      rw [setWindowAct_eq (i := ⟨window.toNat, Nat.lt_succ_of_le hwindow⟩) hn rfl he]
      refine if_neg ?_
      rw [valid_iff]
      exact fun hv => hr ⟨hwindow, henabled, hv⟩
    · rw [setWindowAct, unlessTaken_free hn, yesNo_none (by omega)]
      cases toFin 8 window <;> rfl
  · rw [setWindowAct, unlessTaken_free hn, toFin_none (by omega)]
    rfl

end

section

variable {i : WindowId} {w : Window} {t : State}

theorem replaceWindow_state (h : ¬ Configurable t) : replaceWindow i w t = (t, ⟨.state, []⟩) :=
  if_neg (mt (configurable_iff t).mp h)

theorem replaceWindow_eq (h : Configurable t) :
    replaceWindow i w t = match overlapWith i w t.pitch with
      | some j => (t, ⟨.conflict, [finByte j]⟩)
      | none => ({ t with pitch := { t.pitch with windows := upd t.pitch.windows i fun _ => w } }, ⟨.done, []⟩) := by
  rw [replaceWindow, if_pos ((configurable_iff t).mpr h)]
  cases overlapWith i w t.pitch <;> rfl

theorem overlaps_iff {v w : Window} :
    v.overlaps w = true ↔ w.enabled = true ∧ v.enabled = true ∧ v.firstPitch < w.firstPitch + w.count ∧
      w.firstPitch < v.firstPitch + v.count := by
  simp only [Window.overlaps, Bool.and_eq_true, decide_eq_true_eq]
  exact ⟨fun ⟨⟨⟨hv, hw⟩, h1⟩, h2⟩ => ⟨hw, hv, h1, h2⟩, fun ⟨hw, hv, h1, h2⟩ => ⟨⟨⟨hv, hw⟩, h1⟩, h2⟩⟩

end

/-- Settles O31: the ranges, the section, and then the lowest window that clashes. -/
theorem setWindow : Obligations.SetWindow := by
  unfold Obligations.SetWindow
  intro f s t window enabled first count group h hn hf a inRange
  have replaces : ∀ (i : WindowId) (e : Bool), inRange → window.toNat = i.val → enabled = boolByte e →
      setWindowAct f.link window enabled first count group t =
        replaceWindow i ⟨e, first.toNat, count.toNat, group.toNat⟩ t := by
    intro i e hr hi he
    obtain ⟨-, -, hv⟩ := hr
    rw [setWindowAct_eq hn hi he]
    exact if_pos ((valid_iff _).mpr hv)
  refine ⟨fun hr => setWindow_answers h hf (setWindowAct_range hn hr), fun hr hc => ?_, fun i e hr hc hi he => ?_⟩
  · obtain ⟨e, he⟩ := exists_boolByte hr.2.1
    exact setWindow_answers h hf
      ((replaces ⟨window.toNat, Nat.lt_succ_of_le hr.1⟩ e hr rfl he).trans (replaceWindow_state hc))
  · intro clash
    have hact := (replaces i e hr hi he).trans (replaceWindow_eq hc)
    have hclash : ∀ j : WindowId,
        (j != i && t.pitch.windows[j].overlaps ⟨e, first.toNat, count.toNat, group.toNat⟩) = true ↔ clash j := by
      intro j
      rw [Bool.and_eq_true, bne_iff_ne, overlaps_iff]
    refine ⟨fun j hj hlow => setWindow_answers h hf (hact.trans ?_),
      fun hnone => setWindow_answers h hf (hact.trans ?_)⟩
    · have hsome : overlapWith i ⟨e, first.toNat, count.toNat, group.toNat⟩ t.pitch = some j :=
        find?_allFin_of_lowest ((hclash j).mpr hj) fun k hk => hlow k ((hclash k).mp hk)
      rw [hsome]
    · have hfree : overlapWith i ⟨e, first.toNat, count.toNat, group.toNat⟩ t.pitch = none :=
        List.find?_eq_none.mpr fun j _ => mt (hclash j).mp (hnone j)
      rw [hfree]

end Sys2Proof.Machine

namespace Sys2Proof.Machine

open Safety

/-! ### O32: SET GROUP (03 R48, R54, R55) -/

/-- A byte below the bound of a table is the byte of one of its numbers. -/
theorem finByte_eq {n : Nat} {b : Byte} {i : Fin n} (h : b.toNat = i.val) : finByte i = b := by
  rw [finByte, ← h, byteOf_toNat]

theorem finByte_injective {n : Nat} (h : n ≤ 256) : Function.Injective (finByte (n := n)) := by
  intro i j hij
  have hsome : some i = some j := by rw [← toFin_finByte i h, hij, toFin_finByte j h]
  exact Option.some.inj hsome

/-- The bytes of a list of channels repeat where the channels do. -/
theorem nodup_map_finByte {n : Nat} {l : List (Fin n)} (h : n ≤ 256) : (l.map finByte).Nodup ↔ l.Nodup :=
  List.pairwise_map.trans
    ⟨List.Pairwise.imp fun hne hij => hne (congrArg finByte hij),
      List.Pairwise.imp fun hne hij => hne (finByte_injective h hij)⟩

theorem exists_map_finByte {n : Nat} {l : List Byte} (h : ∀ b ∈ l, b.toNat < n) :
    ∃ ms : List (Fin n), l = ms.map finByte := by
  induction l with
  | nil => exact ⟨[], rfl⟩
  | cons b rest ih =>
    obtain ⟨hb, hrest⟩ := List.forall_mem_cons.mp h
    obtain ⟨ms, rfl⟩ := ih hrest
    exact ⟨⟨b.toNat, hb⟩ :: ms, congrArg (· :: _) (finByte_eq rfl).symm⟩

theorem exists_policyCode {b : Byte} (h : b.toNat ≤ 1) : ∃ p : BusyPolicy, b = p.code := by
  rcases Nat.le_one_iff_eq_zero_or_eq_one.mp h with h | h
  · exact ⟨.delay, eq_ofNat_of_toNat_eq h⟩
  · exact ⟨.drop, eq_ofNat_of_toNat_eq h⟩

theorem policyOfCode_none {b : Byte} (h : 1 < b.toNat) : BusyPolicy.ofCode b = none := by
  unfold BusyPolicy.ofCode
  rw [if_neg, if_neg]
  · rintro rfl; simp at h
  · rintro rfl; simp at h

section

variable {f : Frame} {s t u : State} {group curve policy limit count : Byte} {channels : List Byte} {code : ReplyCode}
  {data : List Byte}

theorem setGroup_answers (h : Offered 0x32 f s t)
    (hf : f.fields = group :: curve :: policy :: limit :: count :: channels) (hl : channels.length = count.toNat)
    (ha : setGroupAct f.link group curve policy limit count channels t = (u, ⟨code, data⟩)) :
    Answers 0x32 (.setGroup f) f s code data u :=
  answers_addressed (decode := setGroupBody f.link) h rfl (addressed_allows h) (by rw [hf]; exact if_pos hl) ha

/-- Coded fields in range: the range of the other fields, and then the section and the other groups. -/
theorem setGroupAct_eq {g : GroupId} {c : CurveId} {p : BusyPolicy} {ms : List ChannelId} (hn : ¬ FromShowInService f t)
    (hg : group.toNat = g.val) (hc : curve.toNat = c.val) (hp : policy = p.code) (hm : channels = ms.map finByte) :
    setGroupAct f.link group curve policy limit count channels t =
      if limit.toNat ≤ 20 ∧ count.toNat ≤ 4 ∧ channels.Nodup then replaceGroup g ⟨ms, c, p, limit.toNat⟩ t
      else (t, ⟨.range, []⟩) := by
  have hnodup : (ms.map finByte).Nodup ↔ ms.Nodup := nodup_map_finByte (by omega)
  rw [setGroupAct, unlessTaken_free hn, toFin_eq hg, toFin_eq hc, hp, busyPolicy_code, hm,
    decodeAll_map (toFin 96) finByte (toFin_finByte · (by omega))]
  simp only [hnodup]
  split <;> rfl

theorem setGroupAct_range (hn : ¬ FromShowInService f t)
    (hr : ¬ (group.toNat ≤ 47 ∧ curve.toNat ≤ 7 ∧ policy.toNat ≤ 1 ∧ limit.toNat ≤ 20 ∧ count.toNat ≤ 4 ∧
      (∀ c ∈ channels, c.toNat ≤ 95) ∧ channels.Nodup)) :
    setGroupAct f.link group curve policy limit count channels t = (t, ⟨.range, []⟩) := by
  by_cases hcoded : group.toNat ≤ 47 ∧ curve.toNat ≤ 7 ∧ policy.toNat ≤ 1 ∧ ∀ c ∈ channels, c.toNat ≤ 95
  · obtain ⟨hgroup, hcurve, hpolicy, hchannels⟩ := hcoded
    obtain ⟨p, hp⟩ := exists_policyCode hpolicy
    obtain ⟨ms, hm⟩ := exists_map_finByte (n := 96) fun c hc => Nat.lt_succ_of_le (hchannels c hc)
    rw [setGroupAct_eq (g := ⟨group.toNat, Nat.lt_succ_of_le hgroup⟩) (c := ⟨curve.toNat, Nat.lt_succ_of_le hcurve⟩)
      hn rfl rfl hp hm]
    exact if_neg fun ⟨hlimit, hcount, hnodup⟩ => hr ⟨hgroup, hcurve, hpolicy, hlimit, hcount, hchannels, hnodup⟩
  · rw [setGroupAct, unlessTaken_free hn]
    refine congrFun (?_ : _ = refuse .range) t
    split
    · next g c p ms hg hc hp hm =>
      refine absurd ⟨?_, ?_, ?_, fun b hb => ?_⟩ hcoded
      · exact Nat.le_of_not_lt fun hlt => by simp [toFin_none hlt] at hg
      · exact Nat.le_of_not_lt fun hlt => by simp [toFin_none hlt] at hc
      · exact Nat.le_of_not_lt fun hlt => by simp [policyOfCode_none hlt] at hp
      · exact Nat.le_of_not_lt fun hlt => by simp [decodeAll_none _ _ b hb (toFin_none hlt)] at hm
    · rfl

end

section

variable {g : GroupId} {new : Group} {t : State}

theorem replaceGroup_state (h : ¬ Configurable t) : replaceGroup g new t = (t, ⟨.state, []⟩) :=
  if_neg (mt (configurable_iff t).mp h)

theorem replaceGroup_conflict {c : ChannelId} {h : GroupId} (hc : Configurable t)
    (hother : memberElsewhere g t.drive new.members = some (c, h)) :
    replaceGroup g new t = (t, ⟨.conflict, [finByte c, finByte h]⟩) := by
  rw [replaceGroup, if_pos ((configurable_iff t).mpr hc), hother]

theorem replaceGroup_done (hc : Configurable t) (hnone : memberElsewhere g t.drive new.members = none) :
    replaceGroup g new t = (regrouped g new t, ⟨.done, []⟩) := by
  rw [replaceGroup, if_pos ((configurable_iff t).mpr hc), hnone]
  rfl

end

/-- Settles O32: the ranges, the section, and then the first channel that another group has. -/
theorem setGroup : Obligations.SetGroup := by
  unfold Obligations.SetGroup
  intro f s t group curve policy limit count channels h hn hf hl a inRange
  have replaces : ∀ (g : GroupId) (c : CurveId) (p : BusyPolicy) (ms : List ChannelId), inRange →
      group.toNat = g.val → curve.toNat = c.val → policy = p.code → channels = ms.map finByte →
      setGroupAct f.link group curve policy limit count channels t = replaceGroup g ⟨ms, c, p, limit.toNat⟩ t := by
    intro g c p ms hr hg hc hp hm
    obtain ⟨-, -, -, hlimit, hcount, -, hnodup⟩ := hr
    rw [setGroupAct_eq hn hg hc hp hm]
    exact if_pos ⟨hlimit, hcount, hnodup⟩
  refine ⟨fun hr => setGroup_answers h hf hl (setGroupAct_range hn hr), fun hr hs => ?_,
    fun g c p ms hr hs hg hc hp hm => ?_⟩
  · obtain ⟨hgroup, hcurve, hpolicy, -, -, hchannels, -⟩ := id hr
    obtain ⟨p, hp⟩ := exists_policyCode hpolicy
    obtain ⟨ms, hm⟩ := exists_map_finByte (n := 96) fun c hc => Nat.lt_succ_of_le (hchannels c hc)
    have hact := replaces ⟨group.toNat, Nat.lt_succ_of_le hgroup⟩ ⟨curve.toNat, Nat.lt_succ_of_le hcurve⟩ p ms hr
      rfl rfl hp hm
    exact setGroup_answers h hf hl (hact.trans (replaceGroup_state hs))
  · intro elsewhere
    have hact := replaces g c p ms hr hg hc hp hm
    have hfree : ∀ l : List ChannelId,
        (∀ y ∈ l, ∀ k, ¬ elsewhere y k) ↔ memberElsewhere g t.drive l = none := by
      intro l
      simp only [memberElsewhere_none_iff, elsewhere, not_and, Decidable.not_not]
    refine ⟨fun front x behind k hsplit hfront hx => ?_, fun hnone => ?_⟩
    · obtain ⟨hx, hk⟩ := hx
      have hfirst : memberElsewhere g t.drive ms = some (x, k) :=
        hsplit ▸ memberElsewhere_first ((hfree front).mp hfront) hx hk
      exact setGroup_answers h hf hl (hact.trans (replaceGroup_conflict hs hfirst))
    · exact ⟨_, setGroup_answers h hf hl (hact.trans (replaceGroup_done hs ((hfree ms).mp hnone))), regrouped_eq g _ t⟩

end Sys2Proof.Machine

namespace Sys2Proof.Machine

open Safety

/-! ### O33: SET CURVE and SET LANES with a map (03 R48, R59, R61) -/

/-- The inverse of `toFin_eq`. -/
theorem toNat_of_toFin {n : Nat} {b : Byte} {i : Fin n} (h : toFin n b = some i) : b.toNat = i.val := by
  unfold toFin at h
  split at h
  · exact congrArg Fin.val (Option.some.inj h)
  · cases h

/-- A number below 65536 is read back from its two bytes. -/
theorem u16_byteOf {n : Nat} (h : n ≤ 65535) : u16 (byteOf (n / 256)) (byteOf n) = n := by
  simp only [u16, toNat_byteOf]
  omega

/-- A point is read back from its four bytes. -/
theorem curvePoint_byteOf {p : CurvePoint} (h : p.width ≤ 65535 ∧ p.flight ≤ 65535) :
    curvePoint (byteOf (p.width / 256)) (byteOf p.width) (byteOf (p.flight / 256)) (byteOf p.flight) = p := by
  rw [curvePoint, u16_byteOf h.1, u16_byteOf h.2]

/-- A curve is read back from its twenty bytes. -/
theorem curvePoints_curveData {points : Curve} (h : ∀ p ∈ points.toList, p.width ≤ 65535 ∧ p.flight ≤ 65535) :
    curvePoints (curveData points) = some points := by
  obtain ⟨⟨l⟩, hl⟩ := points
  match l, hl with
  | [p0, p1, p2, p3, p4], _ =>
    obtain ⟨h0, h1, h2, h3, h4⟩ : _ ∧ _ ∧ _ ∧ _ ∧ _ := by simpa [List.forall_mem_cons] using h
    have hread : ∀ q0 q1 q2 q3 q4 : CurvePoint, q0 = p0 → q1 = p1 → q2 = p2 → q3 = p3 → q4 = p4 →
        some (#v[q0, q1, q2, q3, q4] : Curve) = some #v[p0, p1, p2, p3, p4] := by
      rintro _ _ _ _ _ rfl rfl rfl rfl rfl
      rfl
    exact hread _ _ _ _ _ (curvePoint_byteOf h0) (curvePoint_byteOf h1) (curvePoint_byteOf h2)
      (curvePoint_byteOf h3) (curvePoint_byteOf h4)

theorem allValid_iff (points : Curve) :
    points.toList.all CurvePoint.valid = true ↔
      ∀ p ∈ points.toList, 200 ≤ p.width ∧ p.width ≤ 8000 ∧ 2000 ≤ p.flight ∧ p.flight ≤ 40000 := by
  rw [List.all_eq_true]
  simp only [CurvePoint.valid, Bool.and_eq_true, decide_eq_true_eq, and_assoc]

section

variable {f : Frame} {s t u : State} {curve : Byte} {points : Curve} {code : ReplyCode} {data : List Byte}

theorem setCurve_answers (h : Offered 0x34 f s t)
    (hwords : ∀ p ∈ points.toList, p.width ≤ 65535 ∧ p.flight ≤ 65535)
    (hf : f.fields = curve :: curveData points) (ha : setCurveAct f.link curve points t = (u, ⟨code, data⟩)) :
    Answers 0x34 (.setCurve f) f s code data u :=
  answers_addressed (decode := setCurveBody f.link) h rfl (addressed_allows h)
    (by rw [hf, setCurveBody, curvePoints_curveData hwords]; rfl) ha

/-- A curve number in range: the range of the points, and then the section. -/
theorem setCurveAct_eq {i : CurveId} (hn : ¬ FromShowInService f t) (hi : curve.toNat = i.val) :
    setCurveAct f.link curve points t =
      if points.toList.all CurvePoint.valid then
        if t.configurable then
          ({ t with pitch := { t.pitch with curves := upd t.pitch.curves i fun _ => points } }, ⟨.done, []⟩)
        else (t, ⟨.state, []⟩)
      else (t, ⟨.range, []⟩) := by
  rw [setCurveAct, unlessTaken_free hn, toFin_eq hi]
  rfl

theorem setCurveAct_range (hn : ¬ FromShowInService f t)
    (hr : ¬ (curve.toNat ≤ 7 ∧
      ∀ p ∈ points.toList, 200 ≤ p.width ∧ p.width ≤ 8000 ∧ 2000 ≤ p.flight ∧ p.flight ≤ 40000)) :
    setCurveAct f.link curve points t = (t, ⟨.range, []⟩) := by
  by_cases hcurve : curve.toNat ≤ 7
  · rw [setCurveAct_eq (i := ⟨curve.toNat, Nat.lt_succ_of_le hcurve⟩) hn rfl]
    exact if_neg fun hv => hr ⟨hcurve, (allValid_iff points).mp hv⟩
  · rw [setCurveAct, unlessTaken_free hn, toFin_none (by omega)]
    rfl

end

section

variable {f : Frame} {s t u : State} {code : ReplyCode} {data : List Byte}

theorem setLanes_answers {act : Action} (h : Offered 0x36 f s t) (hd : setLanesBody f.link f.fields = some act)
    (ha : act t = (u, ⟨code, data⟩)) : Answers 0x36 (.setLanes f) f s code data u :=
  answers_addressed (decode := setLanesBody f.link) h rfl (addressed_allows h) hd ha

/-- A class out of range, or class 0 outside lane 0, refuses the map. -/
theorem setLanesAct_range {c0 c1 c2 c3 c4 c5 c6 c7 : Byte} (hn : ¬ FromShowInService f t)
    (hr : (∃ b ∈ [c0, c1, c2, c3, c4, c5, c6, c7], 1 < b.toNat) ∨ c0 = 1) :
    setLanesAct f.link c0 c1 c2 c3 c4 c5 c6 c7 t = (t, ⟨.range, []⟩) := by
  rw [setLanesAct, unlessTaken_free hn]
  dsimp only
  split
  · next h0 h1 h2 h3 h4 h5 h6 h7 =>
    have hlane : ∀ {b : Byte} {i : Fin 2}, toFin 2 b = some i → ¬ 1 < b.toNat := by
      intro b i hb
      rw [toNat_of_toFin hb]
      omega
    rcases hr with hr | rfl
    · simp [hlane h0, hlane h1, hlane h2, hlane h3, hlane h4, hlane h5, hlane h6, hlane h7] at hr
    · exact absurd h0 (by decide)
  · rfl

/-- A map with class 0 in lane 0 is taken. -/
theorem setLanesAct_done {a b c d e g k : Lane} (hn : ¬ FromShowInService f t) :
    setLanesAct f.link (finByte (0 : Lane)) (finByte a) (finByte b) (finByte c) (finByte d) (finByte e) (finByte g)
        (finByte k) t =
      lanesAnswer { t with pitch := { t.pitch with lanes := #v[0, a, b, c, d, e, g, k] } } := by
  have hread : ∀ i : Lane, toFin 2 (finByte i) = some i := fun i => toFin_finByte i (by omega)
  rw [setLanesAct, unlessTaken_free hn]
  simp only [hread]

end

/-- Settles O33: a curve is ranged before the section is asked; a map is answered as it was sent. -/
theorem setCurveAndLanes : Obligations.SetCurveAndLanes := by
  unfold Obligations.SetCurveAndLanes
  intro f s t hn
  constructor
  · intro curve points h hwords hf a inRange
    refine ⟨fun hr => setCurve_answers h hwords hf (setCurveAct_range hn hr), fun hr hs => ?_, fun i hr hs hi => ?_⟩
    · obtain ⟨hcurve, hpoints⟩ := hr
      refine setCurve_answers h hwords hf ?_
      rw [setCurveAct_eq (i := ⟨curve.toNat, Nat.lt_succ_of_le hcurve⟩) hn rfl,
        if_pos ((allValid_iff points).mpr hpoints), if_neg (mt (configurable_iff t).mp hs)]
    · refine setCurve_answers h hwords hf ?_
      rw [setCurveAct_eq hn hi, if_pos ((allValid_iff points).mpr hr.2), if_pos ((configurable_iff t).mpr hs)]
  · intro h hlen a
    refine ⟨fun hr => ?_, fun lanes hf hzero => ?_⟩
    · match hf : f.fields, hlen with
      | [c0, c1, c2, c3, c4, c5, c6, c7], _ =>
        refine setLanes_answers h (by rw [hf]; rfl) (setLanesAct_range hn ?_)
        rwa [hf, List.head?_cons, Option.some.injEq] at hr
    · obtain ⟨⟨l⟩, hl⟩ := lanes
      match l, hl with
      | [i, a, b, c, d, e, g, k], _ =>
        obtain rfl : i = 0 := hzero
        refine setLanes_answers h (by rw [hf]; rfl) ((setLanesAct_done hn).trans ?_)
        rw [hf]
        rfl

end Sys2Proof.Machine

namespace Sys2Proof.Machine

open Safety

/-! ### O25: READ WINDOW, READ GROUP, READ CURVE and SET LANES without a map (03 R52, R56, R60, R61) -/

section

variable {f : Frame} {s t : State} {code : ReplyCode} {data : List Byte}

theorem readWindow_answers {form value : Byte} (h : Offered 0x31 f s t) (hf : f.fields = [form, value])
    (ha : readWindowAct form value t = (t, ⟨code, data⟩)) : Answers 0x31 (.readWindow f) f s code data t :=
  answers_addressed (decode := readWindowBody) h rfl (addressed_allows h) (by rw [hf]; rfl) ha

theorem readWindowAct_range {form value : Byte}
    (hr : 1 < form.toNat ∨ (form = 0 ∧ 7 < value.toNat) ∨ (form = 1 ∧ 127 < value.toNat)) :
    readWindowAct form value t = (t, ⟨.range, []⟩) := by
  rcases hr with hform | ⟨rfl, hvalue⟩ | ⟨rfl, hvalue⟩
  · rw [readWindowAct, yesNo_none hform]
    rfl
  · rw [readWindowAct, toFin_none hvalue]
    rfl
  · exact if_neg (by omega)

theorem readWindowAct_window {value : Byte} {i : WindowId} (hi : value.toNat = i.val) :
    readWindowAct 0 value t = (t, ⟨.done, windowData t.pitch.windows[i]⟩) := by
  rw [readWindowAct, toFin_eq hi]
  rfl

theorem readWindowAct_pitch {value : Byte} (hv : value.toNat ≤ 127) :
    readWindowAct 1 value t = (t, ⟨.done, pitchData t.pitch value.toNat⟩) := if_pos hv

theorem readGroup_answers {group : Byte} (h : Offered 0x33 f s t) (hf : f.fields = [group])
    (ha : readGroupAct group t = (t, ⟨code, data⟩)) : Answers 0x33 (.readGroup f) f s code data t :=
  answers_addressed (decode := readGroupBody) h rfl (addressed_allows h) (by rw [hf]; rfl) ha

theorem readGroupAct_range {group : Byte} (hr : 47 < group.toNat) : readGroupAct group t = (t, ⟨.range, []⟩) := by
  rw [readGroupAct, toFin_none hr]
  rfl

theorem readGroupAct_eq {group : Byte} {g : GroupId} (hg : group.toNat = g.val) :
    readGroupAct group t = (t, ⟨.done, groupData t t.pitch.groups[g]⟩) := by
  rw [readGroupAct, toFin_eq hg]
  rfl

/-- Either body of READ CURVE. -/
theorem readCurve_answers {act : Action} (h : Offered 0x35 f s t) (hd : readCurveBody f.fields = some act)
    (ha : act t = (t, ⟨code, data⟩)) : Answers 0x35 (.readCurve f) f s code data t :=
  answers_addressed (decode := readCurveBody) h rfl (addressed_allows h) hd ha

theorem readCurvePoints_range {curve : Byte} (hr : 7 < curve.toNat) :
    readCurvePoints curve t = (t, ⟨.range, []⟩) := by
  rw [readCurvePoints, toFin_none hr]
  rfl

theorem readCurvePoints_eq {curve : Byte} {i : CurveId} (hi : curve.toNat = i.val) :
    readCurvePoints curve t = (t, ⟨.done, curveData t.pitch.curves[i]⟩) := by
  rw [readCurvePoints, toFin_eq hi]
  rfl

theorem readCurveAt_range {curve velocity : Byte}
    (hr : 7 < curve.toNat ∨ velocity.toNat = 0 ∨ 127 < velocity.toNat) :
    readCurveAt curve velocity t = (t, ⟨.range, []⟩) := by
  rw [readCurveAt]
  split
  · next i hi =>
    have hcurve := toNat_of_toFin hi
    exact if_neg (by omega)
  · rfl

theorem readCurveAt_eq {curve velocity : Byte} {i : CurveId} (hi : curve.toNat = i.val) (h1 : 1 ≤ velocity.toNat)
    (h127 : velocity.toNat ≤ 127) :
    readCurveAt curve velocity t =
      (t, ⟨.done, curveData t.pitch.curves[i] ++ curveAtData t.pitch.curves[i] velocity.toNat⟩) := by
  rw [readCurveAt, toFin_eq hi]
  exact if_pos ⟨h1, h127⟩

end

/-- The reply of READ WINDOW by pitch, for each translation of the pitch. -/
theorem pitchData_eq {p : PitchMap} {pitch : Nat} :
    (translate p pitch = .noWindow → pitchData p pitch = [1, 0xFF, 0xFF, 0xFF]) ∧
    (∀ i g, translate p pitch = .noMembers i g → pitchData p pitch = [2, finByte i, finByte g, 0]) ∧
    (∀ i g, translate p pitch = .mapped i g →
      pitchData p pitch = [0, finByte i, finByte g, byteOf p.groups[g].members.length]) := by
  refine ⟨fun h => ?_, fun i g h => ?_, fun i g h => ?_⟩
  · rw [pitchData, h]
    rfl
  · rw [pitchData, h]
  · rw [pitchData, h]

/-- Settles O25: each request answers the record it names, and leaves the state. -/
theorem readPitchMap : Obligations.ReadPitchMap := by
  unfold Obligations.ReadPitchMap
  refine ⟨encodesNumbers, rfl, fun f s t => ⟨?window, ?group, ?curve, ?curveAt, ?lanes⟩⟩
  case window =>
    intro form value h hf
    refine ⟨fun hr => readWindow_answers h hf (readWindowAct_range hr), fun i hform hi => ?_, fun hform hv => ?_⟩
    · subst hform
      exact readWindow_answers h hf (readWindowAct_window hi)
    · subst hform
      have hanswers : ∀ {data : List Byte}, pitchData t.pitch value.toNat = data →
          Answers 0x31 (.readWindow f) f s .done data t := by
        rintro _ rfl
        exact readWindow_answers h hf (readWindowAct_pitch hv)
      obtain ⟨hnone, hempty, hmapped⟩ := pitchData_eq (p := t.pitch) (pitch := value.toNat)
      exact ⟨fun htr => hanswers (hnone htr), fun i g htr => hanswers (hempty i g htr),
        fun i g htr => hanswers (hmapped i g htr)⟩
  case group =>
    intro group h hf
    exact ⟨fun hr => readGroup_answers h hf (readGroupAct_range hr),
      fun g hg => readGroup_answers h hf (readGroupAct_eq hg)⟩
  case curve =>
    intro curve h hf
    exact ⟨fun hr => readCurve_answers h (by rw [hf]; rfl) (readCurvePoints_range hr),
      fun i hi => readCurve_answers h (by rw [hf]; rfl) (readCurvePoints_eq hi)⟩
  case curveAt =>
    intro curve velocity h hf
    refine ⟨fun hr => readCurve_answers h (by rw [hf]; rfl) (readCurveAt_range hr), fun i hi h1 h127 => ?_⟩
    rw [List.append_assoc]
    exact readCurve_answers h (by rw [hf]; rfl) (readCurveAt_eq hi h1 h127)
  case lanes =>
    intro h hf
    exact setLanes_answers h (by rw [hf]; rfl) rfl

end Sys2Proof.Machine

namespace Sys2Proof.Machine

open Safety

/-! ### O45: TEST FIRE (06 R128, 04 R67) -/

section

variable {f : Frame} {s t u : State} {channel velocity curve : Byte} {code : ReplyCode} {data : List Byte}
  {c : ChannelId} {v : CurveId}

/-- A request of the pendant is answered as its rule answers. -/
theorem testFire_answers (h : Offered 0x66 f s t) (hlink : f.link = .servicePort)
    (hf : f.fields = [channel, velocity, curve]) (ha : testFireAct channel velocity curve t = (u, ⟨code, data⟩)) :
    Answers 0x66 (.testFire f) f s code data u :=
  answers_addressed (decode := testFireBody) h rfl (beq_iff_eq.mpr hlink) (by rw [hf]; rfl) ha

/-- Numbers in range: the velocity, the section, the room in the list, and then the placement. -/
theorem testFireAct_eq (hc : channel.toNat = c.val) (hv : curve.toNat = v.val) :
    testFireAct channel velocity curve t =
      if 1 ≤ velocity.toNat ∧ velocity.toNat ≤ 127 then
        if t.sect.state ≠ .service then (t, ⟨.state, []⟩)
        else if t.fireListFull then (t, ⟨.full, []⟩)
        else (placeTest (testShot c velocity.toNat v t) t,
          ⟨.done, testReply (t.sched.placementCounter + 1) (testShot c velocity.toNat v t)⟩)
      else (t, ⟨.range, []⟩) := by
  rw [testFireAct, toFin_eq hc, toFin_eq hv]
  rfl

theorem testFireAct_range (hr : ¬ (channel.toNat ≤ 95 ∧ 1 ≤ velocity.toNat ∧ velocity.toNat ≤ 127 ∧ curve.toNat ≤ 7)) :
    testFireAct channel velocity curve t = (t, ⟨.range, []⟩) := by
  rw [testFireAct]
  split
  · next c v hc hv =>
    have hchannel := toNat_of_toFin hc
    have hcurve := toNat_of_toFin hv
    exact if_neg (by omega)
  · rfl

end

/-- A placed TEST firing is in the list, so it arrives in the event that placed it (04 R67, R74). -/
theorem placeTest_arrives (sh : Shot) (t : State) :
    Arrives (nextFiring t.now (.test sh) t) (placeFiring t.now (.test sh) t) (placeTest sh t) := by
  refine arrive_arrives ?_
  obtain ⟨front, behind, -, -, -, hplaced⟩ := insertFiring_split (nextFiring t.now (.test sh) t) t.sched.fireList
  have hlist : (placeFiring t.now (.test sh) t).sched.fireList =
      front ++ nextFiring t.now (.test sh) t :: behind := hplaced
  rw [hlist]
  exact List.mem_append_right front List.mem_cons_self

/-- Settles O45: the ranges, the section, the room in the list, and then the firing placed and arrived. -/
theorem testFire : Obligations.TestFire := by
  unfold Obligations.TestFire
  intro f s t channel velocity curve h hlink hf a inRange
  refine ⟨fun hr => testFire_answers h hlink hf (testFireAct_range hr), fun hr hs => ?_, fun hr hs hfull => ?_,
    fun c v hr hs hroom hc hv => ?_⟩
  · obtain ⟨hchannel, h1, h127, hcurve⟩ := hr
    refine testFire_answers h hlink hf ?_
    rw [testFireAct_eq (c := ⟨channel.toNat, Nat.lt_succ_of_le hchannel⟩)
      (v := ⟨curve.toNat, Nat.lt_succ_of_le hcurve⟩) rfl rfl, if_pos ⟨h1, h127⟩, if_pos hs]
  · obtain ⟨hchannel, h1, h127, hcurve⟩ := hr
    refine testFire_answers h hlink hf ?_
    rw [testFireAct_eq (c := ⟨channel.toNat, Nat.lt_succ_of_le hchannel⟩)
      (v := ⟨curve.toNat, Nat.lt_succ_of_le hcurve⟩) rfl rfl, if_pos ⟨h1, h127⟩, if_neg (Decidable.not_not.mpr hs),
      if_pos (fireListFull_iff.mpr hfull)]
  · obtain ⟨-, h1, h127, -⟩ := hr
    intro x width shot number
    have hact : testFireAct channel velocity curve t = (placeTest shot t, ⟨.done, testReply number shot⟩) := by
      rw [testFireAct_eq hc hv, if_pos ⟨h1, h127⟩, if_neg (Decidable.not_not.mpr hs),
        if_neg (mt fireListFull_iff.mp (Nat.not_le.mpr hroom))]
      rfl
    exact ⟨_, _, placeFiring_places t.now (.test shot) t, placeTest_arrives shot t,
      testFire_answers h hlink hf hact⟩

end Sys2Proof.Machine

namespace Sys2Proof.Machine

open Safety

/-! ### O55: the fire list bounded and in fire-time order (04 R65)

The law speaks of the fire times of the list alone. Every change but a placement leaves a sublist of the fire times
there were (`FireTimesWithin`), and a sublist of a bounded, ordered list is bounded and ordered. A placement finds room
(01 R19, 06 R128) and takes the position that its fire time gives. -/

/-- The fire times of the list, in list order. -/
def fireTimes (s : State) : List Time := s.sched.fireList.map Firing.fireTime

/-- Fire times that the fire list may have (04 R65). -/
def FireTimesLaw (times : List Time) : Prop := times.length ≤ fireListSize ∧ times.Pairwise (· ≤ ·)

theorem FireTimesLaw.sublist {l m : List Time} (h : l.Sublist m) (hm : FireTimesLaw m) : FireTimesLaw l :=
  ⟨Nat.le_trans h.length_le hm.1, hm.2.sublist h⟩

theorem fireListInOrder_iff (s : State) : FireListInOrder s ↔ FireTimesLaw (fireTimes s) := by
  simp only [FireListInOrder, InFireOrder, FireTimesLaw, fireTimes, List.length_map, List.pairwise_map]

/-! #### Changes that place nothing -/

/-- The fire times of `t` are those of `s`, but for some that may have left. -/
def FireTimesWithin (s t : State) : Prop := (fireTimes t).Sublist (fireTimes s)

section

variable {s t u : State}

theorem FireTimesWithin.trans (h : FireTimesWithin s t) (g : FireTimesWithin t u) : FireTimesWithin s u :=
  List.Sublist.trans g h

theorem FireTimesWithin.of_times (h : fireTimes t = fireTimes s) : FireTimesWithin s t := by
  unfold FireTimesWithin
  exact h ▸ List.Sublist.refl (fireTimes t)

theorem FireTimesWithin.of_sublist (h : t.sched.fireList.Sublist s.sched.fireList) : FireTimesWithin s t := h.map _

theorem FireTimesWithin.of_fireList (h : t.sched.fireList = s.sched.fireList) : FireTimesWithin s t :=
  .of_sublist (h ▸ .refl _)

theorem FireTimesWithin.of_sched (h : t.sched = s.sched) : FireTimesWithin s t := .of_fireList (by rw [h])

theorem FireTimesWithin.refl (s : State) : FireTimesWithin s s := .of_sched rfl

theorem FireTimesWithin.keeps (h : FireTimesWithin s t) (hs : FireListInOrder s) : FireListInOrder t := by
  rw [fireListInOrder_iff] at hs ⊢
  exact hs.sublist h

theorem foldl_fireTimesWithin {α : Type} {f : State → α → State} (hf : ∀ t a, FireTimesWithin t (f t a)) (l : List α)
    (s : State) : FireTimesWithin s (l.foldl f s) := by
  induction l generalizing s with
  | nil => exact .refl s
  | cons a l ih => exact (hf s a).trans (ih _)

end

/-! #### Cues -/

section

variable (k : SlotId) (s : State)

theorem withdraw_fireTimesWithin : FireTimesWithin s (withdraw k s) := .of_sublist List.filter_sublist

theorem emptySlot_fireTimesWithin : FireTimesWithin s (emptySlot k s) := withdraw_fireTimesWithin k s

theorem freezeOccupant_fireTimesWithin : FireTimesWithin s (freezeOccupant k s).2 := by
  unfold freezeOccupant
  split
  · exact .refl s
  · exact withdraw_fireTimesWithin k s

theorem preempt_fireTimesWithin : FireTimesWithin s (preempt k s) := freezeOccupant_fireTimesWithin k s

theorem takeRole_fireTimesWithin : FireTimesWithin s (takeRole k s) := by
  unfold takeRole
  split
  · next j _ =>
    have hstarts : FireTimesWithin (preempt j s) (startSlot k (preempt j s)) := .of_sched (by simp)
    exact (preempt_fireTimesWithin j s).trans hstarts
  · exact .of_sched (by simp)

theorem pauseSlot_fireTimesWithin : FireTimesWithin s (pauseSlot k s) := withdraw_fireTimesWithin k s

theorem dropSlot_fireTimesWithin : FireTimesWithin s (dropSlot k s) := by
  have hempty : ∀ t : State, t.sched = s.sched → FireTimesWithin s (emptySlot k t) := fun t ht =>
    .trans (.of_sched ht) (emptySlot_fireTimesWithin k t)
  unfold dropSlot
  split
  · exact (hempty s rfl).trans (.of_sched (by simp))
  · exact (hempty s rfl).trans (.of_sched (by simp))
  · exact hempty (leaveStack k s) rfl
  · exact hempty (leaveWaiting k s) rfl
  · exact hempty s rfl
  · exact .refl s

end

/-! #### Arrivals -/

section

variable {s : State}

theorem removeFiring_fireTimesWithin (f : Firing) (s : State) : FireTimesWithin s (removeFiring f s) :=
  .of_sublist List.erase_sublist

/-- A firing that waits for its rail keeps its fire time (04 R74). -/
theorem replaceFiring_fireTimes {f g : Firing} (hf : f ∈ s.sched.fireList) (hg : g.fireTime = f.fireTime) :
    fireTimes (replaceFiring f g s) = fireTimes s := by
  obtain ⟨front, behind, hl, hn⟩ := first_of_mem hf
  simp only [fireTimes, replaceFiring, setFireList_sched_fireList, hl, replace_first hn, List.map_append, List.map_cons,
    hg]

theorem arrive_fireTimesWithin {f : Firing} (hf : f ∈ s.sched.fireList) : FireTimesWithin s (arrive f s) := by
  have hwaits : ∀ limit, FireTimesWithin s (replaceFiring f (f.arrived limit) s) := fun _ =>
    .of_times (replaceFiring_fireTimes hf rfl)
  have hleft := removeFiring_fireTimesWithin f s
  unfold arrive
  split
  case h_1 => exact hwaits _
  case h_2 => exact hwaits _
  case h_3 => exact hleft
  case h_4 => exact hleft
  case h_5 => exact hleft
  case h_6 e _ =>
    have hempty := emptySlot_fireTimesWithin e.slot (setFlag .cueDone (removeFiring f s))
    exact hleft.trans (hempty.trans (.of_sched (by simp [completeCue])))

theorem arriveIfReached_fireTimesWithin (placed : Option Firing) : FireTimesWithin s (arriveIfReached placed s) := by
  unfold arriveIfReached
  split
  · split
    · exact arriveInTurn_law (P := FireTimesWithin s) (fun f t hf h => h.trans (arrive_fireTimesWithin hf)) _ s (.refl s)
    · exact .refl s
  · exact .refl s

end

/-! #### Pulses and phases -/

section

variable (s : State)

theorem changeRail_sched (r : RailId) (f : Rail → Rail) : (changeRail r f s).sched = s.sched := by
  unfold changeRail raiseOverload
  split <;> simp

theorem grantPulse_fireList (c : ChannelId) (p : Pulse) (noCurrent : Bool) :
    (grantPulse c p noCurrent s).sched.fireList = s.sched.fireList := by
  unfold grantPulse
  split
  · exact beginPulse_fireList c p noCurrent s
  · rfl
  · rfl

theorem endRecovery_fireList (c : ChannelId) (noCurrent : Bool) :
    (endRecovery c noCurrent s).sched.fireList = s.sched.fireList := by
  unfold endRecovery
  split
  · exact beginPulse_fireList c _ noCurrent _
  · rfl

theorem settleChannel_fireList (c : ChannelId) (noCurrent : Bool) :
    (settleChannel c noCurrent s).sched.fireList = s.sched.fireList := by
  unfold settleChannel
  split
  · rfl
  all_goals
    split
    · rfl
    · exact endRecovery_fireList s c noCurrent

theorem grant_fireTimesWithin (v : BitVec 96) (f : Firing) (sh : Shot) : FireTimesWithin s (grant v f sh s) :=
  .trans (removeFiring_fireTimesWithin f (updRail sh.rail (.charged sh.charge) s))
    (.of_fireList (grantPulse_fireList _ _ _ _))

/-- A walk takes the granted firings out of the list (05 R106). -/
theorem walkGrants_fireTimesWithin (v : BitVec 96) (n : Nat) (l : List Firing) :
    FireTimesWithin s (walkGrants v n l s) := by
  induction l generalizing n s with
  | nil => rw [walkGrants]; exact .refl s
  | cons f rest ih =>
    rw [walkGrants]
    split
    · exact ih s n
    · split
      · exact ih s n
      · split
        · exact .refl s
        · split
          · exact (grant_fireTimesWithin s v f _).trans (ih _ _)
          · exact .refl s

theorem startPhase_fireTimesWithin (v : BitVec 96) : FireTimesWithin s (startPhase v s) := by
  have hswitch : ∀ t, FireTimesWithin t (switchTable t) := fun t => by
    unfold switchTable
    split <;> exact .of_sched rfl
  have haccount : ∀ t, FireTimesWithin t (accountRails t) := fun t =>
    foldl_fireTimesWithin (fun _ _ => .of_sched (changeRail_sched _ _ _)) _ t
  have hadmit : ∀ t, FireTimesWithin t (admission v t) := fun t => by
    unfold admission
    split
    · exact walkGrants_fireTimesWithin t v _ _
    · exact .refl t
  have hbegun : FireTimesWithin s { s with rail.lastPhaseStart := some s.partTime } := .of_sched rfl
  unfold startPhase
  exact hbegun.trans ((hswitch _).trans ((haccount _).trans (hadmit _)))

theorem setMembership_fireTimesWithin (v : Option GroupId) (l : List ChannelId) :
    FireTimesWithin s (setMembership v l s) := .of_sched (by rw [(setMembership_eq v l s).2])

end

/-! #### Placements -/

section

variable {k : SlotId} {s : State}

/-- A placement in a list with room leaves it bounded and in order (04 R65). -/
theorem placeFiring_inOrder {time : Time} {kind : FiringKind} (hs : FireListInOrder s) (hroom : s.fireListFull = false) :
    FireListInOrder (placeFiring time kind s) := by
  obtain ⟨front, behind, hl, hfront, hbehind, hplaced⟩ := placeFiring_places time kind s
  obtain ⟨hlen, hord⟩ := hs
  have hlt : s.sched.fireList.length < fireListSize := by simpa [State.fireListFull] using hroom
  rw [hplaced]
  rw [hl] at hlt hord
  obtain ⟨hf, hb, hfb⟩ := List.pairwise_append.mp hord
  have hlater : ∀ g ∈ behind, time ≤ g.fireTime := by
    cases behind with
    | nil => exact fun _ hg => absurd hg List.not_mem_nil
    | cons b rest =>
      have hhead : time < b.fireTime := hbehind b rfl
      refine List.forall_mem_cons.mpr ⟨Int.le_of_lt hhead, fun g hg => ?_⟩
      exact Int.le_trans (Int.le_of_lt hhead) (List.rel_of_pairwise_cons hb hg)
  refine ⟨?_, List.pairwise_append.mpr ⟨hf, List.pairwise_cons.mpr ⟨hlater, hb⟩, fun a ha => ?_⟩⟩
  · simp only [List.length_append, List.length_cons] at hlt ⊢
    omega
  · exact List.forall_mem_cons.mpr ⟨hfront a ha, hfb a ha⟩

theorem takeOffer_inOrder {o : Offer} (hs : FireListInOrder s) (hroom : s.fireListFull = false) :
    FireListInOrder (takeOffer o s).1 := by
  unfold takeOffer
  split
  · exact FireTimesWithin.keeps (.of_fireList (by simp [skipLate])) hs
  · dsimp only
    split
    · exact placeFiring_inOrder hs hroom
    · exact FireTimesWithin.keeps (.of_fireList (by simp [skipBusy])) hs

/-- An entry whose commit takes a place finds one, by condition 5 (01 R19). -/
theorem commitEffect_inOrder {e : Event} {due : Time} (hs : FireListInOrder s)
    (hroom : needsPlace s.pitch s.cue.slots[k] e = true → s.fireListFull = false) :
    FireListInOrder (commitEffect k e due s).1 := by
  unfold needsPlace at hroom
  unfold commitEffect
  dsimp only
  split
  case h_1 pitch velocity cls he =>
    simp only [he] at hroom
    unfold commitNote
    split
    · exact FireTimesWithin.keeps (.of_fireList (by simp)) hs
    · next g hg => exact takeOffer_inOrder hs (hroom (by rw [hg]; rfl))
  case h_6 => exact hs
  case h_7 => exact hs
  all_goals
    next he =>
      simp only [he] at hroom
      exact placeFiring_inOrder hs (hroom trivial)

theorem commitHead_inOrder (hs : FireListInOrder s) (hk : commitReady s = some k) :
    FireListInOrder (commitHead k s) := by
  obtain ⟨e, ⟨-, -, hhead, -⟩, hplace⟩ := commitReady_iff.mp hk
  unfold commitHead
  split
  · next e' rest hun =>
    obtain rfl : e' = e := by rw [hun] at hhead; exact Option.some.inj hhead
    have hroom : needsPlace s.pitch s.cue.slots[k] e' = true → s.fireListFull = false := fun hn =>
      decide_eq_false (Nat.not_le.mpr (hplace ((needsPlace_iff s _ e').mp hn)))
    split
    · next due _ =>
      have hpassed : ∀ v u : State, u.sched = v.sched → ∀ placed, FireTimesWithin v (arriveIfReached placed u) :=
        fun v u hu placed => FireTimesWithin.trans (.of_sched hu) (arriveIfReached_fireTimesWithin placed)
      exact (hpassed _ _ (by simp) _).keeps (commitEffect_inOrder (due := due) hs hroom)
    · exact hs
  · exact hs

theorem placeTest_inOrder {sh : Shot} (hs : FireListInOrder s) (hroom : s.fireListFull = false) :
    FireListInOrder (placeTest sh s) := by
  refine FireTimesWithin.keeps (arrive_fireTimesWithin ?_) (placeFiring_inOrder hs hroom)
  obtain ⟨front, behind, -, -, -, hplaced⟩ := placeFiring_places s.now (.test sh) s
  rw [hplaced]
  exact List.mem_append_right front List.mem_cons_self

end

/-! #### Every change -/

theorem fireListInOrder_of_empty {s : State} (h : s.sched.fireList = []) : FireListInOrder s := by
  rw [FireListInOrder, h]
  exact ⟨Nat.zero_le _, .nil⟩

theorem change_fireListInOrder {s t : State} (h : Change s t) (hs : FireListInOrder s) : FireListInOrder t := by
  induction h with
  | refl => exact hs
  | trans _ _ ih1 ih2 => exact ih2 (ih1 hs)
  | calm h => exact FireTimesWithin.keeps (.of_fireList h.fireList) hs
  | powerOn => exact fireListInOrder_of_empty rfl
  | commit k s hk => exact commitHead_inOrder hs hk
  | test sh s _ hroom => exact placeTest_inOrder hs hroom
  | arrive f s hf => exact (arrive_fireTimesWithin hf).keeps hs
  | leave f s => exact (removeFiring_fireTimesWithin f s).keeps hs
  | removeTests s => exact FireTimesWithin.keeps (.of_sublist List.filter_sublist) hs
  | takeRole k s => exact (takeRole_fireTimesWithin k s).keeps hs
  | pause k s => exact (pauseSlot_fireTimesWithin k s).keeps hs
  | drop k s => exact (dropSlot_fireTimesWithin k s).keeps hs
  | phase noCurrent s => exact (startPhase_fireTimesWithin s noCurrent).keeps hs
  | hush target halt s =>
    obtain ⟨-, -, -, -, hsched, -⟩ := beginHush_begins target halt s
    exact fireListInOrder_of_empty (by rw [hsched])
  | railSetting r limit drain s => exact FireTimesWithin.keeps (.of_sched (changeRail_sched s r _)) hs
  | channel c g noCurrent s => exact FireTimesWithin.keeps (.of_fireList (settleChannel_fireList _ c noCurrent)) hs
  | recoveryEnd c noCurrent s => exact FireTimesWithin.keeps (.of_fireList (endRecovery_fireList s c noCurrent)) hs
  | group g new s =>
    exact ((setMembership_fireTimesWithin _ _ _).trans (setMembership_fireTimesWithin _ _ _)).keeps hs
  | continue_ k s => exact FireTimesWithin.keeps (.of_sched (by simp [continueSlot])) hs
  | judge s => exact FireTimesWithin.keeps (.of_sched (by simp)) hs
  | accept l b s => exact FireTimesWithin.keeps (.of_sched (by simp [acceptFrame])) hs
  | complete s => exact FireTimesWithin.keeps (.of_sched (by simp)) hs
  | takeover s => exact FireTimesWithin.keeps (.of_sched (by simp)) hs
  | openCue | events | slotDetails | enterWaiting | window | lanes | railLatch | takeOut | short | unfence | pulseEnd
  | halt | toHalted | toQuiet => exact hs

/-- Settles O55: every change that a step is made of loses firings, or places one where there is room. -/
theorem fireListKept : Obligations.FireListKept := by
  unfold Obligations.FireListKept
  exact law_of_changes fun _ _ => change_fireListInOrder

end Sys2Proof.Machine

namespace Sys2Proof.Machine

open Safety

/-! ### O26: READ FIRE LIST, READ PHASES, READ RAIL and READ CHANNEL (04 R87, R88, 05 R95, R103, 06 R120) -/

/-! #### Views of a firing -/

theorem railWaiting_eq (g : Firing) : g.railWaiting = (g.state != .waiting) := by
  rw [← Bool.not_not (b := g.railWaiting), not_railWaiting]
  rfl

theorem isFor_eq (c : ChannelId) (g : Firing) : g.isFor c = (g.kind.shot?.map Shot.channel == some c) := by
  unfold Firing.isFor
  cases g.kind.shot? <;> rfl

theorem waitsFor_eq (r : RailId) (g : Firing) :
    g.waitsFor r = (g.state != .waiting && g.kind.shot?.map Shot.rail == some r) := by
  rw [Firing.waitsFor, railWaiting_eq]
  cases g.kind.shot? <;> rfl

/-! #### READ FIRE LIST (04 R87, R88) -/

theorem toList_two {α : Type} (v : Vector α 2) : v.toList = [v[0], v[1]] := by
  obtain ⟨⟨l⟩, hl⟩ := v
  match l, hl with
  | [_, _], _ => rfl

/-- The statistics form, but for the last mark. -/
theorem statisticsData_eq (c : Scheduler) :
    statisticsData c =
      [byteOf c.fireList.length, byteOf (c.fireList.countP fun g => g.state != .waiting)] ++
        be16 c.stats.lateBegins ++ be32 c.stats.maxLateness ++ be16 c.stats.skippedUnmapped ++
        be16 c.stats.skippedLate ++ be16 c.stats.skippedBusy ++ be16 c.stats.expired ++
        [byteOf c.lateLimitsMs[0], byteOf c.lateLimitsMs[1]] ++ markData c.lastMark ++
        be32 c.placementCounter.toNat := by
  have hwaiting : Firing.railWaiting = fun g => g.state != .waiting := funext railWaiting_eq
  rw [statisticsData, limitsData, toList_two, countByte, hwaiting]
  rfl

section

variable {f : Frame} {s t u : State} {form value : Byte} {code : ReplyCode} {data : List Byte}

theorem readFireList_answers (h : Offered 0x40 f s t) (hf : f.fields = [form, value])
    (ha : readFireListAct form value t = (u, ⟨code, data⟩)) : Answers 0x40 (.readFireList f) f s code data u :=
  answers_addressed (decode := readFireListBody) h rfl (addressed_allows h) (by rw [hf]; rfl) ha

theorem readFireListAct_range
    (hr : 1 < form.toNat ∨ (form = 0 ∧ 1 < value.toNat) ∨ (form = 1 ∧ 63 < value.toNat)) :
    readFireListAct form value t = (t, ⟨.range, []⟩) := by
  rcases hr with hform | ⟨rfl, hvalue⟩ | ⟨rfl, hvalue⟩
  · rw [readFireListAct, yesNo_none hform]
    rfl
  · rw [readFireListAct, yesNo_none hvalue]
    rfl
  · exact if_neg (Nat.not_le.mpr hvalue)

theorem readFireListAct_list (hv : value.toNat ≤ 63) :
    readFireListAct 1 value t = (t, ⟨.done, fireListData t.sched value.toNat⟩) := if_pos hv

end

/-! #### READ PHASES (05 R95) -/

section

variable {f : Frame} {s t : State} {choice offset count : Byte} {code : ReplyCode} {data : List Byte}

theorem readPhases_answers (h : Offered 0x52 f s t) (hf : f.fields = [choice, offset, count])
    (ha : readPhasesAct choice offset count t = (t, ⟨code, data⟩)) :
    Answers 0x52 (.readPhases f) f s code data t :=
  answers_addressed (decode := readPhasesBody) h rfl (addressed_allows h) (by rw [hf]; rfl) ha

theorem readPhasesAct_range
    (hr : ¬ (choice.toNat ≤ 1 ∧ offset.toNat ≤ 63 ∧ 1 ≤ count.toNat ∧ count.toNat ≤ 32 ∧
      offset.toNat + count.toNat ≤ 64)) :
    readPhasesAct choice offset count t = (t, ⟨.range, []⟩) := by
  by_cases hchoice : choice.toNat ≤ 1
  · obtain ⟨e, rfl⟩ := exists_boolByte hchoice
    rw [readPhasesAct, yesNo_boolByte]
    exact if_neg fun h => hr ⟨hchoice, h⟩
  · rw [readPhasesAct, yesNo_none (Nat.not_le.mp hchoice)]
    rfl

theorem readPhasesAct_eq {pending : Bool} (hr : offset.toNat ≤ 63 ∧ 1 ≤ count.toNat ∧ count.toNat ≤ 32 ∧
      offset.toNat + count.toNat ≤ 64) :
    readPhasesAct (boolByte pending) offset count t =
      (t, ⟨.done, phasesData t.rail (chosenEntries pending offset.toNat count.toNat t.rail)⟩) := by
  rw [readPhasesAct, yesNo_boolByte]
  exact if_pos hr

end

/-! #### READ RAIL (05 R103) -/

section

variable {f : Frame} {s t : State} {rail : Byte} {code : ReplyCode} {data : List Byte}

theorem readRail_answers (h : Offered 0x54 f s t) (hf : f.fields = [rail])
    (ha : readRailAct rail t = (t, ⟨code, data⟩)) : Answers 0x54 (.readRail f) f s code data t :=
  answers_addressed (decode := readRailBody) h rfl (addressed_allows h) (by rw [hf]; rfl) ha

theorem readRailAct_range (hr : 3 < rail.toNat) : readRailAct rail t = (t, ⟨.range, []⟩) := by
  rw [readRailAct, toFin_none hr]
  rfl

theorem readRailAct_eq {r : RailId} (hr : rail.toNat = r.val) :
    readRailAct rail t = (t, ⟨.done, railData t r⟩) := by
  rw [readRailAct, toFin_eq hr]
  rfl

end

/-! #### READ CHANNEL (06 R120) -/

/-- The record of a strike channel: what is said of the pulse in drive, of the slot and of the group, and the firings
planned for the channel, counted by their state. -/
theorem strikeData_eq {s : State} {c : ChannelId} {driven : Bool × Byte × List Byte} {slot : List Byte}
    {group : Byte}
    (hdriven : let st := s.drive.strikes[c].state
      (st.pulse?.isSome, st.code, pulseData (st.pulse?.map DrivenPulse.pulse) ++ driveTimes st.pulse?) = driven)
    (hslot : pulseData s.drive.strikes[c].nextPulse = slot)
    (hgroup : optByte finByte s.drive.strikes[c].group = group) :
    strikeData s c =
      let x := s.drive.strikes[c]
      let planned (waits : Bool) (g : Firing) : Bool :=
        (g.state != .waiting) == waits && (g.kind.shot?.map Shot.channel == some c)
      [finByte x.rail, byteOf x.currentClass, byteOf x.recoveryMs, driven.2.1,
          flagByte [driven.1, x.nextPulse.isSome, x.lastPulseEnd.isSome, x.fenced], group] ++
        driven.2.2 ++ slot ++ partTime48 (x.lastPulseEnd.getD 0) ++ partTime48 x.readyTime ++ [x.lastSense.code] ++
        be16 x.pulseCount.toNat ++
        [byteOf (s.sched.fireList.countP (planned false)), byteOf (s.sched.fireList.countP (planned true))] := by
  subst hdriven hslot hgroup
  have hwaiting : (fun g : Firing => g.isFor c && !g.railWaiting) = fun g : Firing =>
      (g.state != .waiting) == false && (g.kind.shot?.map Shot.channel == some c) := by
    funext g
    rw [isFor_eq, railWaiting_eq, Bool.and_comm, beq_false]
  have hrailWait : (fun g : Firing => g.isFor c && g.railWaiting) = fun g : Firing =>
      (g.state != .waiting) == true && (g.kind.shot?.map Shot.channel == some c) := by
    funext g
    rw [isFor_eq, railWaiting_eq, Bool.and_comm, beq_true]
  rw [strikeData, countByte, hwaiting, countByte, hrailWait]
  simp only [optPartTime, List.append_assoc]

section

variable {b : Byte}

theorem designation_strike {c : ChannelId} (h : b.toNat = c.val) : designation b = some (.strike c) := by
  rw [designation, toFin_eq h]

theorem designation_hold {k : HoldId} (h : b.toNat = 96 + k.val) : designation b = some (.hold k) := by
  have hk : (b - 96).toNat = k.val := by bv_omega
  rw [designation, toFin_none (by omega), toFin_eq hk]

theorem designation_rotor {m : RotorId} (h : b.toNat = 100 + m.val) : designation b = some (.rotor m) := by
  have hhold : 4 ≤ (b - 96).toNat := by bv_omega
  have hm : (b - 100).toNat = m.val := by bv_omega
  rw [designation, toFin_none (by omega), toFin_none hhold, toFin_eq hm]

theorem designation_none (h : 101 < b.toNat) : designation b = none := by
  have hhold : 4 ≤ (b - 96).toNat := by bv_omega
  have hrotor : 2 ≤ (b - 100).toNat := by bv_omega
  rw [designation, toFin_none (by omega), toFin_none hhold, toFin_none hrotor]

end

section

variable {f : Frame} {s t : State} {which : Byte} {code : ReplyCode} {data : List Byte}

theorem readChannel_answers (h : Offered 0x61 f s t) (hf : f.fields = [which])
    (ha : readChannelAct which t = (t, ⟨code, data⟩)) : Answers 0x61 (.readChannel f) f s code data t :=
  answers_addressed (decode := readChannelBody) h rfl (addressed_allows h) (by rw [hf]; rfl) ha

theorem readChannelAct_range (hr : 101 < which.toNat) : readChannelAct which t = (t, ⟨.range, []⟩) := by
  rw [readChannelAct, designation_none hr]
  rfl

theorem readChannelAct_eq {d : Designation} (hd : designation which = some d) :
    readChannelAct which t = (t, ⟨.done, channelData t d⟩) := by
  rw [readChannelAct, hd]
  rfl

end

/-- Settles O26: the encodings and codes, and then the data of each reply. -/
theorem readSchedulerRailsAndDrive : Obligations.ReadSchedulerRailsAndDrive := by
  unfold Obligations.ReadSchedulerRailsAndDrive
  refine ⟨encodesNumbers, fun _ => rfl, rfl, fun _ => rfl, rfl, fun f s t => ⟨?fireList, ?phases, ?rail, ?channel⟩⟩
  case fireList =>
    intro form value h hf a stats statistics shot byKind byState listed
    have hstatistics : statisticsData t.sched = statistics := statisticsData_eq t.sched
    have hkind : ∀ g : Firing, (g.kind.code, g.kind.source.code, kindData g.kind) = byKind g := by
      rintro ⟨number, time, state, kind⟩
      cases kind <;> rfl
    have hstate : ∀ g : Firing, (g.state.code, expiryOffset g) = byState g := by
      rintro ⟨number, time, state, kind⟩
      cases state <;> rfl
    have hlisted : firingData = listed := by
      funext g
      show firingData g = be16 g.number.toNat ++ [(byKind g).1, (byState g).1, (byKind g).2.1] ++
        partTime48 g.fireTime ++ be16 (byState g).2 ++ (byKind g).2.2
      rw [← hkind g, ← hstate g]
      rfl
    refine ⟨fun hr => readFireList_answers h hf (readFireListAct_range hr), ?_, ?_, ?_⟩
    · rintro rfl rfl
      exact readFireList_answers h hf (hstatistics ▸ rfl)
    · rintro rfl rfl
      exact readFireList_answers h hf (hstatistics ▸ rfl)
    · rintro rfl hv
      refine readFireList_answers h hf ((readFireListAct_list hv).trans ?_)
      rw [fireListData, hlisted]
  case phases =>
    intro choice offset count h hf a inRange entries index
    have hanswers : ∀ (pending : Bool) {data : List Byte}, inRange → choice = boolByte pending →
        phasesData t.rail (chosenEntries pending offset.toNat count.toNat t.rail) = data → a .done data t := by
      rintro pending _ ⟨-, hr⟩ rfl rfl
      exact readPhases_answers h hf (readPhasesAct_eq hr)
    refine ⟨fun hr => readPhases_answers h hf (readPhasesAct_range hr), fun hr hc => hanswers false hr hc rfl,
      fun hr hc hp => hanswers true hr hc ?_, fun x hr hc hp => hanswers true hr hc ?_,
      fun x hr hc hp => hanswers true hr hc ?_⟩
    all_goals
      unfold phasesData chosenEntries
      rw [hp]
      rfl
  case rail =>
    intro rail h hf
    refine ⟨fun hr => readRail_answers h hf (readRailAct_range hr), fun r hr => ?_⟩
    intro x
    have hwaits : Firing.waitsFor r =
        fun g => g.state != .waiting && g.kind.shot?.map Shot.rail == some r := funext (waitsFor_eq r)
    refine readRail_answers h hf ((readRailAct_eq hr).trans ?_)
    rw [railData, countByte, hwaits]
    rfl
  case channel =>
    intro which h hf a
    refine ⟨fun hr => readChannel_answers h hf (readChannelAct_range hr), fun c hc => ?_, fun k hk => ?_,
      fun m hm => ?_⟩
    · intro x pulse noPulse driven planned
      have hpulse : ∀ p : Pulse, pulseData (some p) = pulse p := by
        rintro ⟨width, source, fireTime⟩
        cases source <;> rfl
      have hdriven : (x.state.pulse?.isSome, x.state.code,
          pulseData (x.state.pulse?.map DrivenPulse.pulse) ++ driveTimes x.state.pulse?) = driven := by
        dsimp only [driven]
        cases x.state with
        | driving p =>
          show (true, (1 : Byte), pulseData (some p.pulse) ++ (partTime48 p.beginTime ++ partTime48 p.endTime)) = _
          rw [hpulse, ← List.append_assoc]
        | idle => rfl
        | recover => rfl
      have hslot : pulseData x.nextPulse = match x.nextPulse with
          | some p => pulse p
          | none => noPulse := by
        cases x.nextPulse with
        | some p => exact hpulse p
        | none => rfl
      have hgroup : optByte finByte x.group = match x.group with
          | some g => finByte g
          | none => 0xFF := by
        cases x.group <;> rfl
      refine readChannel_answers h hf ((readChannelAct_eq (designation_strike hc)).trans ?_)
      exact congrArg (fun data => (t, (⟨.done, data⟩ : Reply))) (strikeData_eq hdriven hslot hgroup)
    · exact readChannel_answers h hf (readChannelAct_eq (designation_hold hk))
    · exact readChannel_answers h hf (readChannelAct_eq (designation_rotor hm))

end Sys2Proof.Machine

namespace Sys2Proof.Machine

open Safety

/-! ### O36: the projected free time and the choice of a member (04 R68 to R71) -/

/-! #### The projected free time (04 R69) -/

section

variable {s : State} {c : ChannelId}

/-- When a channel is free again after a firing planned for it. -/
def plannedFree (s : State) (c : ChannelId) (f : Firing) : Option Time :=
  (f.kind.shot?.filter fun sh => sh.channel = c).map fun sh =>
    f.fireTime + sh.width + s.drive.strikes[c].recoveryTime

theorem plannedFree_eq_some {f : Firing} {t : Time} :
    plannedFree s c f = some t ↔
      ∃ sh, f.kind.shot? = some sh ∧ sh.channel = c ∧ t = f.fireTime + sh.width + s.drive.strikes[c].recoveryTime := by
  simp only [plannedFree, Option.map_eq_some_iff, Option.filter_eq_some_iff, decide_eq_true_eq, and_assoc]
  exact exists_congr fun sh => and_congr_right fun _ => and_congr_right fun _ => eq_comm

/-- The third stage is a running maximum, from the base on. -/
theorem projectedFree_eq_foldl :
    projectedFree s c = (s.sched.fireList.filterMap (plannedFree s c)).foldl max s.drive.strikes[c].freeBase := by
  rw [List.foldl_filterMap, projectedFree]
  congr 1
  funext t f
  unfold plannedFree
  cases f.kind.shot? with
  | none => rfl
  | some sh => by_cases h : sh.channel = c <;> simp [Option.filter, h]

/-- The projected free time is the greatest of the base and of the ends of the planned firings. -/
theorem projectedFree_greatest :
    s.drive.strikes[c].freeBase ≤ projectedFree s c ∧
      (∀ f ∈ s.sched.fireList, ∀ t, plannedFree s c f = some t → t ≤ projectedFree s c) ∧
      (projectedFree s c = s.drive.strikes[c].freeBase ∨
        ∃ f ∈ s.sched.fireList, plannedFree s c f = some (projectedFree s c)) := by
  have hmax : (s.drive.strikes[c].freeBase :: s.sched.fireList.filterMap (plannedFree s c)).max? =
      some (projectedFree s c) := by
    rw [List.max?_cons', projectedFree_eq_foldl]
  obtain ⟨hmem, hle⟩ := List.max?_eq_some_iff.mp hmax
  rw [List.mem_cons, List.mem_filterMap] at hmem
  rw [List.forall_mem_cons] at hle
  exact ⟨hle.1, fun f hf t ht => hle.2 t (List.mem_filterMap.mpr ⟨f, hf, ht⟩), hmem⟩

/-- The second stage: the pulse in the slot follows what the channel does without it. -/
theorem freeBase_slot {x : StrikeChannel} {p : Pulse} (h : x.nextPulse = some p) :
    x.freeBase = { x with nextPulse := none }.freeBase + p.width + x.recoveryTime := by
  rw [StrikeChannel.freeBase, h]
  rfl

/-- The first two stages: the pulse in drive or the ready time, and then the pulse in the slot. -/
theorem freeBase_eq {x : StrikeChannel} {stop base : Time}
    (hdriving : ∀ p, x.state = .driving p → stop = p.endTime + x.recoveryTime)
    (hready : (∀ p, x.state ≠ .driving p) → stop = x.readyTime)
    (hslot : ∀ p, x.nextPulse = some p → base = stop + p.width + x.recoveryTime)
    (hempty : x.nextPulse = none → base = stop) : x.freeBase = base := by
  have hstop : { x with nextPulse := none }.freeBase = stop := by
    unfold StrikeChannel.freeBase
    cases hx : x.state with
    | driving p => exact (hdriving p hx).symm
    | idle => exact (hready (by simp [hx])).symm
    | recover => exact (hready (by simp [hx])).symm
  cases hn : x.nextPulse with
  | some p => rw [freeBase_slot hn, hstop, hslot p hn]
  | none =>
    have hself : { x with nextPulse := none } = x := by rw [← hn]
    rw [hempty hn, ← hstop, hself]

end

/-! #### The choice (04 R70, R71) -/

section

theorem earliest_mem {l : List (ChannelId × Time)} {m : ChannelId × Time} (h : earliest l = some m) : m ∈ l := by
  induction l with
  | nil => cases h
  | cons a rest ih =>
    unfold earliest at h
    split at h
    · next n hn =>
      split at h
      · cases h; exact List.mem_cons_of_mem _ (ih hn)
      · cases h; exact List.mem_cons_self
    · cases h; exact List.mem_cons_self

variable {g : Group} {fire : Time} {front behind : List (ChannelId × Time)} {m : ChannelId × Time}

/-- The earliest is earlier than every member in front of it and no later than those behind it. -/
theorem earliest_first (hfront : ∀ n ∈ front, m.2 < n.2) (hbehind : ∀ n ∈ behind, m.2 ≤ n.2) :
    earliest (front ++ m :: behind) = some m := by
  induction front with
  | nil =>
    rw [List.nil_append, earliest]
    split
    · next n hn => exact if_neg (Int.not_lt.mpr (hbehind n (earliest_mem hn)))
    · rfl
  | cons a rest ih =>
    obtain ⟨ha, hrest⟩ := List.forall_mem_cons.mp hfront
    rw [List.cons_append, earliest, ih hrest]
    exact if_pos ha

theorem chooseMember_nil : chooseMember g fire [] = none := by
  cases hp : g.policy <;> simp [chooseMember, earliest, hp]

/-- A member that is free at the offered time strikes then (04 R70 step 1). -/
theorem chooseMember_free (hfront : ∀ n ∈ front, m.2 < n.2) (hbehind : ∀ n ∈ behind, m.2 ≤ n.2) (hm : m.2 ≤ fire) :
    chooseMember g fire (front ++ m :: behind) = some (m.1, fire) := by
  have hfree : earliest ((front ++ m :: behind).filter fun n => n.2 ≤ fire) = some m := by
    rw [List.filter_append, List.filter_cons_of_pos (by simpa using hm)]
    exact earliest_first (fun n hn => hfront n (List.mem_filter.mp hn).1)
      fun n hn => hbehind n (List.mem_filter.mp hn).1
  rw [chooseMember, hfree]

/-- No member is free at the offered time: the busy policy decides (04 R71). -/
theorem chooseMember_busy (hfront : ∀ n ∈ front, m.2 < n.2) (hbehind : ∀ n ∈ behind, m.2 ≤ n.2) (hm : fire < m.2) :
    chooseMember g fire (front ++ m :: behind) =
      if g.policy = .delay ∧ m.2 - fire ≤ (g.delayLimitMs : Int) * 1000 then some m else none := by
  have hnone : (front ++ m :: behind).filter (fun n => n.2 ≤ fire) = [] := by
    simp only [List.filter_eq_nil_iff, List.forall_mem_append, List.forall_mem_cons, decide_eq_true_eq, Int.not_le]
    exact ⟨fun n hn => Int.lt_trans hm (hfront n hn), hm, fun n hn => Int.lt_of_lt_of_le hm (hbehind n hn)⟩
  rw [chooseMember, hnone, earliest_first hfront hbehind]
  cases hp : g.policy <;> simp [earliest]

end

/-- Settles O36: the projection is a maximum, and the choice falls on the first of the earliest members. -/
theorem memberChoice : Obligations.MemberChoice := by
  unfold Obligations.MemberChoice
  refine ⟨fun s c => ?_, fun s g => ?_, fun _ _ => chooseMember_nil, fun g fire front m behind hfront hbehind =>
    ⟨chooseMember_free hfront hbehind, fun hm hp hlimit => ?_, fun hm hdrop => ?_⟩⟩
  · intro x rest planned stop base hdriving hready hslot hempty
    have hbase : s.drive.strikes[c].freeBase = base := freeBase_eq hdriving hready hslot hempty
    have hgreatest := projectedFree_greatest (s := s) (c := c)
    simp only [hbase, plannedFree_eq_some] at hgreatest
    exact hgreatest
  · unfold candidates
    congr 2
    funext c
    cases s.drive.strikes[c].fenced <;> rfl
  · rw [chooseMember_busy hfront hbehind hm, if_pos ⟨hp, hlimit⟩]
  · rw [chooseMember_busy hfront hbehind hm, if_neg]
    rintro ⟨hp, hlimit⟩
    rcases hdrop with hdrop | hlate
    · rw [hdrop] at hp; cases hp
    · exact absurd hlimit (Int.not_le.mpr hlate)

end Sys2Proof.Machine

namespace Sys2Proof.Machine

open Safety

/-! ### O37: FIRE_TIME_ARRIVAL and LATE_EXPIRY (04 R74, R75) -/

/-- The first of a list that passes a test. -/
theorem find?_of_first {α : Type} {p : α → Bool} {front behind : List α} {a : α} (hfront : ∀ b ∈ front, p b = false)
    (ha : p a = true) : (front ++ a :: behind).find? p = some a :=
  List.find?_eq_some_iff_append.mpr ⟨ha, front, behind, rfl, fun b hb => by rw [hfront b hb]; rfl⟩

section

variable {s : State} {front behind : List Firing} {f : Firing}

theorem arrives_iff {now : Time} : f.arrives now = true ↔ f.state = .waiting ∧ f.fireTime ≤ now := by
  rw [Firing.arrives, not_railWaiting, Bool.and_eq_true, decide_eq_true_eq, decide_eq_true_eq]

theorem execFireTimeArrival_of_first (hl : s.sched.fireList = front ++ f :: behind)
    (hfront : ∀ g ∈ front, ¬ (g.state = .waiting ∧ g.fireTime ≤ s.now)) (hf : f.state = .waiting ∧ f.fireTime ≤ s.now) :
    Completes .fireTimeArrival s (arrive f s) := by
  have hfirst : firstArrival s = some f := by
    rw [firstArrival, hl]
    exact find?_of_first (fun g hg => Bool.eq_false_iff.mpr (mt arrives_iff.mp (hfront g hg))) (arrives_iff.mpr hf)
  show execFireTimeArrival s = _
  rw [execFireTimeArrival, hfirst]
  rfl

theorem execFireTimeArrival_of_none (h : ∀ f ∈ s.sched.fireList, ¬ (f.state = .waiting ∧ f.fireTime ≤ s.now)) :
    exec .fireTimeArrival s = .next s := by
  have hnone : firstArrival s = none := List.find?_eq_none.mpr fun f hf => mt arrives_iff.mp (h f hf)
  show execFireTimeArrival s = _
  rw [execFireTimeArrival, hnone]

/-! #### The late expiry (04 R75) -/

variable {n : BitVec 32}

/-- The firing has the number, and its late expiry has come. -/
theorem expiring_iff {now : Time} :
    (f.number == n && f.expires now) = true ↔ f.number = n ∧ ∃ t, f.state = .railWait t ∧ t ≤ now := by
  rw [Bool.and_eq_true, beq_iff_eq, expires_iff]

theorem execLateExpiry_of_none
    (h : ∀ f ∈ s.sched.fireList, ¬ (f.number = n ∧ ∃ t, f.state = .railWait t ∧ t ≤ s.now)) :
    exec (.lateExpiry n) s = .next s := by
  have hnone : expiring n s = none := List.find?_eq_none.mpr fun f hf => mt expiring_iff.mp (h f hf)
  show execLateExpiry n s = _
  rw [execLateExpiry, hnone]

theorem execLateExpiry_of_first (hl : s.sched.fireList = front ++ f :: behind)
    (hfront : ∀ g ∈ front, ¬ (g.number = n ∧ ∃ t, g.state = .railWait t ∧ t ≤ s.now))
    (hf : f.number = n ∧ ∃ t, f.state = .railWait t ∧ t ≤ s.now) :
    exec (.lateExpiry n) s = .next (settle s (expire f s)) := by
  have hfirst : expiring n s = some f := by
    rw [expiring, hl]
    exact find?_of_first (fun g hg => Bool.eq_false_iff.mpr (mt expiring_iff.mp (hfront g hg))) (expiring_iff.mpr hf)
  show execLateExpiry n s = _
  rw [execLateExpiry, hfirst]
  rfl

/-- The drop of a firing that carries a shot: out of the list, counted, and then its error. -/
theorem expire_eq {o : Occurrence} (hl : s.sched.fireList = front ++ f :: behind) (hn : f ∉ front)
    (ho : expiryError s.now f f.kind = some o) :
    expire f s = raise o { s with sched := { s.sched with
      fireList := front ++ behind
      stats := { s.sched.stats with expired := min 65535 (s.sched.stats.expired + 1) } } } := by
  rw [expire, ho, removeFiring, hl, erase_first hn]
  rfl

end

/-- Settles O37: the first firing of the list that arrives, or that expires, and nothing where there is none. -/
theorem arrivalAndExpiry : Obligations.ArrivalAndExpiry := by
  unfold Obligations.ArrivalAndExpiry
  intro s arrives expires
  refine ⟨fun front f behind hl hfront hf => ?_, execFireTimeArrival_of_none, fun n front f behind hl hfront hf => ?_,
    fun n => execLateExpiry_of_none⟩
  · have hmem : f ∈ s.sched.fireList := hl ▸ List.mem_append_right front List.mem_cons_self
    exact ⟨_, arrive_arrives hmem, execFireTimeArrival_of_first hl hfront hf⟩
  · intro dropped lateness
    have hn : f ∉ front := fun hmem => hfront f hmem hf
    have drops : ∀ o, expiryError s.now f f.kind = some o → CompletesRaising (.lateExpiry n) s dropped o := by
      intro o ho
      refine completesRaising_of ?_
      rw [execLateExpiry_of_first hl hfront hf, expire_eq hl hn ho]
    exact ⟨fun e pitch g sh hk => drops _ (by rw [hk]; rfl), fun sh hk => drops _ (by rw [hk]; rfl)⟩

end Sys2Proof.Machine

namespace Sys2Proof.Machine

open Safety

/-! ### O41: the walk of an admission (05 R106, R107, 04 R76) -/

section

variable {s : State} {f : Firing} {sh : Shot} {rest : List Firing} {noCurrent : BitVec 96} {n : Nat}

theorem passedOver_iff {x : StrikeChannel} :
    x.passedOver = true ↔
      x.fenced = true ∨ (∃ p, x.state = .driving p) ∨ (x.state = .recover ∧ x.nextPulse ≠ none) := by
  unfold StrikeChannel.passedOver
  cases hx : x.state <;> simp [Option.isSome_iff_ne_none]

theorem walkGrants_nil : walkGrants noCurrent n [] s = s := by rw [walkGrants]

theorem walkGrants_passes (hs : f.kind.shot? = some sh) (hp : s.drive.strikes[sh.channel].passedOver = true) :
    walkGrants noCurrent n (f :: rest) s = walkGrants noCurrent n rest s := by
  rw [walkGrants, hs]
  exact if_pos hp

/-- A candidate that is not passed over ends the walk, or is granted. -/
theorem walkGrants_judges (hs : f.kind.shot? = some sh) (hp : ¬ s.drive.strikes[sh.channel].passedOver = true) :
    walkGrants noCurrent 0 (f :: rest) s = s ∧
      walkGrants noCurrent (n + 1) (f :: rest) s =
        if s.rail.rails[sh.rail].accumulator + sh.charge ≤ s.rail.rails[sh.rail].effectiveLimit then
          walkGrants noCurrent n rest (grant noCurrent f sh s)
        else s := by
  constructor <;>
  · rw [walkGrants, hs]
    exact if_neg hp

/-- The charge of a grant, with the near flag that it gives (05 R97, R104). -/
theorem charged_eq (charge : Nat) (x : Rail) :
    x.charged charge =
      { x with accumulator := x.accumulator + charge, near := decide (x.limit * 3 / 4 < x.accumulator + charge) } := rfl

theorem grantPulse_recover {c : ChannelId} {p : Pulse} {v : Bool} (h : s.drive.strikes[c].state = .recover) :
    grantPulse c p v s = updStrike c (fun y => { y with nextPulse := some p }) s := by
  rw [grantPulse, h]

theorem grantPulse_idle {c : ChannelId} {p : Pulse} {v : Bool} (h : s.drive.strikes[c].state = .idle) :
    Begins c p v s (grantPulse c p v s) := by
  rw [grantPulse, h]
  exact beginPulse_begins c p v s

end

/-- Settles O41, candidate by candidate: passed over, the end of the walk, or granted. -/
theorem admission_holds : Obligations.Admission := by
  unfold Obligations.Admission
  intro noCurrent n f rest sh s
  refine ⟨walkGrants_nil, fun hs => ?_⟩
  intro x rail passed fits
  have hpassed : x.passedOver = true ↔ passed := passedOver_iff
  refine ⟨fun hp => walkGrants_passes hs (hpassed.mpr hp), fun hp hend => ?_, fun m hp hn hfits hf => ?_⟩
  · cases n with
    | zero => exact (walkGrants_judges (n := 0) hs (mt hpassed.mp hp)).1
    | succ n =>
      have hfits : ¬ fits := hend.resolve_left (Nat.succ_ne_zero n)
      exact (walkGrants_judges hs (mt hpassed.mp hp)).2.trans (if_neg hfits)
  · subst hn
    intro charged pulse
    have hmem : f ∈ charged.sched.fireList := hf
    exact ⟨removeFiring f charged, _, removeFiring_leaves hmem, fun hx => grantPulse_recover hx,
      fun hx => grantPulse_idle hx, (walkGrants_judges hs (mt hpassed.mp hp)).2.trans (if_pos hfits)⟩

end Sys2Proof.Machine

namespace Sys2Proof.Machine

open Safety

/-! ### O49: RELEASE and CLEAR HALT (07 R141, R143) -/

/-! #### The kinds that hold a halt (08 R147, 07 R143) -/

/-- An unmasked kind of FATAL severity whose status is set, in the words of the statements. -/
theorem holdsHalt_iff {k : KindRecord} :
    k.holdsHalt = true ↔ k.masked = false ∧ k.severity = .fatal ∧ k.status = true := by
  rw [KindRecord.holdsHalt, Bool.and_eq_true, Bool.and_eq_true, Bool.not_eq_true', beq_iff_eq, and_assoc]

section

variable {m : FaultMonitor}

theorem haltingKind_none (h : ∀ k : Fin 13, ¬ m.kinds[k].holdsHalt = true) : haltingKind m = none :=
  List.find?_eq_none.mpr fun k _ => h k

theorem haltingKind_lowest {k : Fin 13} (hk : m.kinds[k].holdsHalt = true)
    (hlow : ∀ j : Fin 13, m.kinds[j].holdsHalt = true → k ≤ j) : haltingKind m = some k :=
  find?_allFin_of_lowest hk hlow

theorem haltingKind_isSome {k : Fin 13} (hk : m.kinds[k].holdsHalt = true) : (haltingKind m).isSome = true :=
  List.find?_isSome.mpr ⟨k, List.mem_finRange k, hk⟩

end

/-! #### RELEASE (07 R141) -/

section

variable {f : Frame} {s t u : State} {code : ReplyCode} {data : List Byte}

/-- The slot loses a pulse of the source (04 R82, R83). -/
theorem emptySlotOf_eq (src : Source) (x : StrikeChannel) :
    x.emptySlotOf src = if x.nextPulse.map Pulse.source = some src then { x with nextPulse := none } else x := by
  unfold StrikeChannel.emptySlotOf StrikeChannel.holdsPulseOf
  cases x.nextPulse <;> simp

/-- A TEST pulse that drives is cut, once the slot is empty of TEST pulses (04 R83). -/
theorem dropTest_driving {now : Time} {x : StrikeChannel} {p : DrivenPulse} (hx : x.state = .driving p)
    (hp : p.pulse.source = .test) :
    x.dropTest now =
      { x.emptySlotOf .test with
        state := .recover, lastPulseEnd := some now, readyTime := now + (x.recoveryMs : Int) * 1000 } := by
  have hstate : (x.emptySlotOf .test).state = .driving p := by rw [emptySlotOf_eq]; split <;> exact hx
  have hrecovery : (x.emptySlotOf .test).recoveryMs = x.recoveryMs := by rw [emptySlotOf_eq]; split <;> rfl
  rw [StrikeChannel.dropTest, hx]
  dsimp only
  rw [if_pos (beq_iff_eq.mpr hp), StrikeChannel.cut, hstate]
  dsimp only
  rw [StrikeChannel.stopAt, StrikeChannel.recoveryTime, hrecovery]

/-- Any other channel loses no more than its slot's TEST pulse. -/
theorem dropTest_other {now : Time} {x : StrikeChannel} (hx : ∀ p, x.state = .driving p → p.pulse.source ≠ .test) :
    x.dropTest now = x.emptySlotOf .test := by
  rw [StrikeChannel.dropTest]
  split
  · next p hp => exact if_neg (mt beq_iff_eq.mp (hx p hp))
  · rfl
  · rfl

theorem release_answers (h : Offered 0x74 f s t) (hlink : f.link = .servicePort) (hf : f.fields = [])
    (ha : releaseAct t = (u, ⟨code, data⟩)) : Answers 0x74 (.release f) f s code data u :=
  answers_addressed (decode := releaseBody) h rfl (beq_iff_eq.mpr hlink) (by rw [hf]; rfl) ha

theorem releaseAct_refuses (h : t.sect.state ≠ .service) : releaseAct t = (t, ⟨.state, []⟩) := if_neg h

/-- Halt-pending with a kind that holds the halt: HALTED (07 R141 step 3). -/
theorem releaseAct_halts (h : t.sect.state = .service) (hpending : t.sect.haltPending = true)
    (hkind : (haltingKind t.fault).isSome = true) :
    releaseAct t = (setSection .halted (giveBack (removeTests t)), ⟨.done, [5]⟩) := by
  have hhalts : releaseHalts t = true := by rw [releaseHalts, hpending, hkind]; rfl
  rw [releaseAct, if_pos h, releaseSection, hhalts]
  rfl

/-- Otherwise QUIET, and the best waiting cue is judged (07 R141 step 4). -/
theorem releaseAct_quiet (h : t.sect.state = .service)
    (hfree : t.sect.haltPending = false ∨ haltingKind t.fault = none) :
    releaseAct t =
      (judgeWaiting { giveBack (removeTests t) with
        sect := { (giveBack (removeTests t)).sect with state := .quiet, haltPending := false } }, ⟨.done, [0]⟩) := by
  have hhalts : releaseHalts t = false := by
    rw [releaseHalts]
    rcases hfree with hfree | hfree <;> rw [hfree]
    · rfl
    · exact Bool.and_false _
  rw [releaseAct, if_pos h, releaseSection, hhalts]
  rfl

end

/-! #### CLEAR HALT (07 R143) -/

section

variable {f : Frame} {s t u : State} {code : ReplyCode} {data : List Byte}

theorem clearHalt_answers (h : Offered 0x75 f s t) (hf : f.fields = [])
    (ha : clearHaltAct t = (u, ⟨code, data⟩)) : Answers 0x75 (.clearHalt f) f s code data u :=
  answers_addressed (decode := clearHaltBody) h rfl (addressed_allows h) (by rw [hf]; rfl) ha

theorem clearHaltAct_refuses (h : t.sect.state ≠ .halted) : clearHaltAct t = (t, ⟨.state, []⟩) := if_pos h

theorem clearHaltAct_conflict {k : Fin 13} (h : t.sect.state = .halted) (hk : haltingKind t.fault = some k) :
    clearHaltAct t = (t, ⟨.conflict, [finByte k]⟩) := by
  rw [clearHaltAct, if_neg (Decidable.not_not.mpr h), hk]

theorem clearHaltAct_clears (h : t.sect.state = .halted) (hk : haltingKind t.fault = none) :
    clearHaltAct t = ({ t with sect := { t.sect with state := .quiet, haltPending := false } }, ⟨.done, []⟩) := by
  rw [clearHaltAct, if_neg (Decidable.not_not.mpr h), hk]
  rfl

end

/-- Settles O49: the section, then the kind that holds the halt, decides where each request leads. -/
theorem releaseAndClearHalt : Obligations.ReleaseAndClearHalt := by
  unfold Obligations.ReleaseAndClearHalt
  intro f s t hf halts
  have hholds : ∀ k : Fin 13, t.fault.kinds[k].holdsHalt = true ↔ halts k := fun _ => holdsHalt_iff
  have hnone : (∀ k, ¬ halts k) → haltingKind t.fault = none := fun h =>
    haltingKind_none fun k => mt (hholds k).mp (h k)
  constructor
  · intro h hlink a given
    have hgiven : ∀ v state halt,
        v = { t with
          sched := { t.sched with fireList := t.sched.fireList.filter fun g => g.kind.source != .test }
          drive := { t.drive with strikes := mapAll (.dropTest t.now) t.drive.strikes }
          sect := { t.sect with state := state, haltPending := halt, silenceTimer := none, takeover := .none }
          fault := { t.fault with flags := t.fault.flags ||| AttentionFlag.takeover.bit } } →
        given v state halt := by
      rintro _ state halt rfl
      refine ⟨fun c => ?_, rfl⟩
      rw [mapAll_get]
      dsimp only
      rw [← emptySlotOf_eq]
      split
      · next p hx =>
        split
        · next hp => exact dropTest_driving hx hp
        · next hp => exact dropTest_other fun q hq => by rw [hx] at hq; cases hq; exact hp
      all_goals
        next hx => exact dropTest_other fun q hq => by rw [hx] at hq; cases hq
    refine ⟨fun hs => release_answers h hlink hf (releaseAct_refuses hs), fun k hs hpending hk => ?_,
      fun hs hfree => ?_⟩
    · refine ⟨_, hgiven _ _ _ ?_,
        release_answers h hlink hf (releaseAct_halts hs hpending (haltingKind_isSome ((hholds k).mpr hk)))⟩
      rw [← hpending]
      rfl
    · exact ⟨_, _, hgiven _ _ _ rfl, judgeWaiting_judged _,
        release_answers h hlink hf (releaseAct_quiet hs (hfree.imp_right hnone))⟩
  · intro h a
    refine ⟨fun hs => clearHalt_answers h hf (clearHaltAct_refuses hs), fun k hs hk hlow => ?_,
      fun hs hfree => clearHalt_answers h hf (clearHaltAct_clears hs (hnone hfree))⟩
    have hlowest := haltingKind_lowest ((hholds k).mpr hk) fun j hj => hlow j ((hholds j).mp hj)
    exact clearHalt_answers h hf (clearHaltAct_conflict hs hlowest)

end Sys2Proof.Machine

namespace Sys2Proof.Machine

open Safety

/-! ### O53: the rails' flags in agreement with their accumulators (05 R97, R98)

Both laws speak of one rail record at a time (`RailLaw`). Accounting and SET RAIL evaluate both flags anew, a grant
stays within the limit, and a latch is cleared only where nothing exceeds the limit. -/

/-- The laws of O53, of one record. -/
structure RailLaw (x : Rail) : Prop where
  latched : x.limit < x.accumulator → x.latch = true
  near : x.near = nearOf x.accumulator x.limit

/-- The laws of O53, of the four records. -/
def RailsLaw (s : State) : Prop := ∀ r : RailId, RailLaw s.rail.rails[r]

theorem railsLaw_iff {s : State} : RailsLaw s ↔ OverloadLatched s ∧ NearFlagTrue s :=
  ⟨fun h => ⟨fun r => (h r).latched, fun r => (h r).near⟩, fun h r => ⟨h.1 r, h.2 r⟩⟩

/-! #### The operations on one record -/

section

variable {x : Rail}

/-- A record whose two flags are evaluated anew. -/
theorem railLaw_evaluated : RailLaw x.withNear.latched where
  latched h := (Bool.or_eq_true _ _).mpr (.inr (decide_eq_true h))
  near := rfl

theorem effectiveLimit_le : x.effectiveLimit ≤ x.limit := by
  unfold Rail.effectiveLimit
  split <;> omega

/-- A grant that fits keeps the accumulator within the limit (05 R106). -/
theorem railLaw_charged {charge : Nat} (h : x.accumulator + charge ≤ x.effectiveLimit) :
    RailLaw (x.charged charge) where
  latched hover := absurd hover (Nat.not_lt.mpr (Nat.le_trans h effectiveLimit_le))
  near := rfl

/-- The latch may be cleared where the accumulator does not exceed the limit (05 R102). -/
theorem RailLaw.unlatched (h : RailLaw x) (ho : x.overloaded = false) : RailLaw { x with latch := false } where
  latched hover := absurd hover (of_decide_eq_false ho)
  near := h.near

end

/-! #### The whole part -/

section

variable {s t : State}

theorem RailsLaw.of_rails (hs : RailsLaw s) (h : t.rail.rails = s.rail.rails) : RailsLaw t := by
  rw [RailsLaw, h]
  exact hs

theorem RailsLaw.of_rail (hs : RailsLaw s) (h : t.rail = s.rail) : RailsLaw t := hs.of_rails (by rw [h])

theorem RailsLaw.updRail {r : RailId} {f : Rail → Rail} (hs : RailsLaw s) (hf : RailLaw (f s.rail.rails[r])) :
    RailsLaw (updRail r f s) := by
  intro q
  rw [updRail_rail_rails, upd_get]
  split
  · next h => subst h; exact hf
  · exact hs q

/-- An overload error reaches the fault monitor and no rail. -/
theorem changeRail_rail (r : RailId) (f : Rail → Rail) (s : State) :
    (changeRail r f s).rail = (updRail r f s).rail := by
  unfold changeRail raiseOverload
  split
  · simp
  · rfl

theorem RailsLaw.changeRail {r : RailId} {f : Rail → Rail} (hs : RailsLaw s) (hf : RailLaw (f s.rail.rails[r])) :
    RailsLaw (changeRail r f s) :=
  (hs.updRail hf).of_rail (changeRail_rail r f s)

theorem powerOn_railsLaw (a : BitVec 5) (r : BitVec 2) (x y : Bool) (n : Nat) (p : List Instr) :
    RailsLaw (State.powerOn a r x y n p) := by
  intro q
  rw [powerOn_rail]
  exact ⟨by decide, rfl⟩

/-! #### A phase start -/

theorem RailsLaw.switchTable (hs : RailsLaw s) : RailsLaw (switchTable s) := by
  unfold Machine.switchTable
  split <;> exact hs

theorem RailsLaw.accountRails (hs : RailsLaw s) : RailsLaw (accountRails s) :=
  List.foldlRecOn _ _ hs fun _ h _ _ => h.changeRail railLaw_evaluated

theorem RailsLaw.grant {v : BitVec 96} {f : Firing} {sh : Shot} (hs : RailsLaw s)
    (hfits : s.rail.rails[sh.rail].accumulator + sh.charge ≤ s.rail.rails[sh.rail].effectiveLimit) :
    RailsLaw (grant v f sh s) :=
  (hs.updRail (f := .charged sh.charge) (railLaw_charged hfits)).of_rail (by simp [Machine.grant])

/-- A walk grants only what fits (05 R106). -/
theorem RailsLaw.walkGrants {v : BitVec 96} {n : Nat} {l : List Firing} (hs : RailsLaw s) :
    RailsLaw (walkGrants v n l s) := by
  induction l generalizing n s with
  | nil => rwa [walkGrants_nil]
  | cons f rest ih =>
    cases hk : f.kind.shot? with
    | none =>
      rw [Machine.walkGrants, hk]
      exact ih hs
    | some sh =>
      by_cases hp : s.drive.strikes[sh.channel].passedOver = true
      · rw [walkGrants_passes hk hp]
        exact ih hs
      · cases n with
        | zero => rwa [(walkGrants_judges (n := 0) hk hp).1]
        | succ n =>
          rw [(walkGrants_judges hk hp).2]
          split
          · next hfits => exact ih (hs.grant hfits)
          · exact hs

theorem RailsLaw.startPhase {v : BitVec 96} (hs : RailsLaw s) : RailsLaw (startPhase v s) := by
  have hadmitted : ∀ {t}, RailsLaw t → RailsLaw (admission v t) := fun ht => by
    unfold admission
    split
    · exact ht.walkGrants
    · exact ht
  have hbegun : RailsLaw { s with rail.lastPhaseStart := some s.partTime } := hs.of_rails rfl
  exact hadmitted hbegun.switchTable.accountRails

end

/-! #### Every change -/

section

variable (s : State)

theorem takeRole_rail (k : SlotId) : (takeRole k s).rail = s.rail := by
  unfold takeRole
  split <;> simp

theorem dropSlot_rail (k : SlotId) : (dropSlot k s).rail = s.rail := by
  unfold dropSlot
  split <;> simp [leaveStack]

theorem regrouped_rail (g : GroupId) (new : Group) : (regrouped g new s).rail = s.rail :=
  congrArg (·.rail) (regrouped_eq g new s).2

theorem settleChannel_rail (c : ChannelId) (noCurrent : Bool) : (settleChannel c noCurrent s).rail = s.rail := by
  unfold settleChannel
  split
  · rfl
  · split <;> simp
  · split <;> simp

end

theorem change_railsLaw {s t : State} (h : Change s t) (hs : RailsLaw s) : RailsLaw t := by
  induction h with
  | refl => exact hs
  | trans _ _ ih1 ih2 => exact ih2 (ih1 hs)
  | calm h => exact hs.of_rails h.rails
  | powerOn a r x y n p => exact powerOn_railsLaw a r x y n p
  | railSetting r limit drain s => exact hs.changeRail railLaw_evaluated
  | railLatch r s ho => exact hs.updRail ((hs r).unlatched ho)
  | phase noCurrent s => exact hs.startPhase
  | accept l b s => exact hs.of_rail (by simp [acceptFrame])
  | takeRole k s => exact hs.of_rail (takeRole_rail s k)
  | pause k s => exact hs.of_rail (by simp [pauseSlot])
  | continue_ k s => exact hs.of_rail (by simp [continueSlot])
  | drop k s => exact hs.of_rail (dropSlot_rail s k)
  | test sh s => exact hs.of_rail (by simp [placeTest])
  | group g new s => exact hs.of_rail (regrouped_rail s g new)
  | channel c g noCurrent s => exact hs.of_rail (settleChannel_rail _ c noCurrent)
  | judge s | recoveryEnd c noCurrent s | commit k s | arrive f s | leave f s | hush target halt s | complete s
  | takeover s | removeTests s => exact hs.of_rail (by simp)
  | openCue | events | slotDetails | enterWaiting | window | lanes | takeOut | short | unfence | pulseEnd | halt
  | toHalted | toQuiet => exact hs

/-- Settles O53: a change evaluates the flags of a record anew, charges it within its limit, or leaves it. -/
theorem railFlagsKept : Obligations.RailFlagsKept := by
  unfold Obligations.RailFlagsKept
  intro s t hlatched hnear hstep
  exact railsLaw_iff.mp (law_of_changes (fun _ _ => change_railsLaw) s t (railsLaw_iff.mpr ⟨hlatched, hnear⟩) hstep)

end Sys2Proof.Machine

namespace Sys2Proof.Machine

open Safety

/-! ### O38: LOAD PHASES and COMMIT PHASES (05 R92, R93) -/

/-! #### The entries of a load (05 R92) -/

/-- Every number up to 4 is the code of one entry. -/
theorem exists_phaseCode {b : Byte} (h : b.toNat ≤ 4) : ∃ e, phaseCode e = b := by
  rcases Nat.lt_or_eq_of_le h with hlt | heq
  · exact ⟨some ⟨b.toNat, hlt⟩, byteOf_toNat b⟩
  · exact ⟨none, (eq_ofNat_of_toNat_eq heq).symm⟩

theorem exists_phaseCodes {entries : List Byte} (h : ∀ e ∈ entries, e.toNat ≤ 4) :
    ∃ es : List (Option RailId), entries = es.map phaseCode := by
  induction entries with
  | nil => exact ⟨[], rfl⟩
  | cons b rest ih =>
    obtain ⟨hb, hrest⟩ := List.forall_mem_cons.mp h
    obtain ⟨e, rfl⟩ := exists_phaseCode hb
    obtain ⟨es, rfl⟩ := ih hrest
    exact ⟨e :: es, rfl⟩

theorem phaseEntry_none {b : Byte} (h : 4 < b.toNat) : phaseEntry b = none := by
  have hb : b ≠ 4 := by
    rintro rfl
    exact absurd h (by decide)
  rw [phaseEntry, if_neg hb, toFin_none (Nat.le_of_lt h)]
  rfl

theorem phaseEntries_le {entries : List Byte} {es : List (Option RailId)}
    (h : decodeAll phaseEntry entries = some es) : ∀ e ∈ entries, e.toNat ≤ 4 := by
  intro e he
  refine Nat.not_lt.mp fun hover => ?_
  rw [decodeAll_none phaseEntry entries e he (phaseEntry_none hover)] at h
  cases h

/-- The table behind a load: the entries from the offset on, and the others as they were. -/
theorem writeEntries_get (offset : Nat) (es : List (Option RailId)) (base : PhaseTable) (n : Fin 64) :
    (writeEntries offset es base)[n] =
      if offset ≤ n.val then es.getD (n.val - offset) base[n] else base[n] := by
  induction es generalizing offset base with
  | nil => simp [writeEntries]
  | cons e rest ih =>
    rw [writeEntries, ih]
    rcases Nat.lt_trichotomy offset n.val with hlt | heq | hgt
    · have hkept : (base.setIfInBounds offset e)[n] = base[n] := Vector.getElem_setIfInBounds_ne _ (Nat.ne_of_lt hlt)
      have hsucc : n.val - offset = n.val - (offset + 1) + 1 := by omega
      rw [if_pos (Nat.succ_le_of_lt hlt), if_pos (Nat.le_of_lt hlt), hkept, hsucc, List.getD_cons_succ]
    · subst heq
      have hset : (base.setIfInBounds n.val e)[n] = e := Vector.getElem_setIfInBounds_self _
      rw [if_neg (Nat.not_succ_le_self _), if_pos (Nat.le_refl _), hset, Nat.sub_self, List.getD_cons_zero]
    · have hkept : (base.setIfInBounds offset e)[n] = base[n] :=
        Vector.getElem_setIfInBounds_ne _ (Nat.ne_of_gt hgt)
      rw [if_neg (by omega), if_neg (Nat.not_le.mpr hgt), hkept]

/-! #### LOAD PHASES (05 R92) -/

section

variable {f : Frame} {s t u : State} {offset count : Byte} {entries data : List Byte} {es : List (Option RailId)}
  {code : ReplyCode}

theorem loadPhases_answers (h : Offered 0x50 f s t) (hf : f.fields = offset :: count :: entries)
    (hl : entries.length = count.toNat) (ha : loadPhasesAct f.link offset count entries t = (u, ⟨code, data⟩)) :
    Answers 0x50 (.loadPhases f) f s code data u :=
  answers_addressed (decode := loadPhasesBody f.link) h rfl (addressed_allows h) (by rw [hf]; exact if_pos hl) ha

theorem loadPhasesAct_range (hn : ¬ FromShowInService f t)
    (hr : ¬ (offset.toNat ≤ 63 ∧ 1 ≤ count.toNat ∧ count.toNat ≤ 32 ∧ offset.toNat + count.toNat ≤ 64 ∧
      ∀ e ∈ entries, e.toNat ≤ 4)) :
    loadPhasesAct f.link offset count entries t = (t, ⟨.range, []⟩) := by
  rw [loadPhasesAct, unlessTaken_free hn]
  cases hd : decodeAll phaseEntry entries with
  | none => rfl
  | some es =>
    dsimp only
    rw [if_neg fun ⟨h1, h2, h3, h4⟩ => hr ⟨h1, h2, h3, h4, phaseEntries_le hd⟩]
    rfl

theorem loadPhasesAct_eq (hn : ¬ FromShowInService f t) (hr : offset.toNat ≤ 63 ∧ 1 ≤ count.toNat ∧
      count.toNat ≤ 32 ∧ offset.toNat + count.toNat ≤ 64) :
    loadPhasesAct f.link offset count (es.map phaseCode) t = writePending offset.toNat es t := by
  rw [loadPhasesAct, unlessTaken_free hn, decodeAll_map phaseEntry phaseCode phaseEntry_code]
  dsimp only
  rw [if_pos hr]

theorem writePending_committed {n : Nat} {x : PhaseTable} (hp : t.rail.pendingTable = .committed x) :
    writePending n es t = (t, ⟨.state, []⟩) := by
  rw [writePending, loadingBase, hp]
  rfl

theorem writePending_loads {n : Nat} {base : PhaseTable}
    (hp : (t.rail.pendingTable = .empty ∧ base = t.rail.table) ∨ t.rail.pendingTable = .loading base) :
    writePending n es t =
      ({ t with rail := { t.rail with pendingTable := .loading (writeEntries n es base) } }, ⟨.done, [1]⟩) := by
  rcases hp with ⟨hp, rfl⟩ | hp
  · rw [writePending, loadingBase, hp]
    rfl
  · rw [writePending, loadingBase, hp]
    rfl

end

/-! #### The rail that a table leaves unserved (05 R93) -/

/-- A search over a list answers with the first element that has an answer. -/
theorem findSome?_of_find? {α β : Type} {g : α → Option β} {l : List α} {a : α}
    (h : l.find? (fun b => (g b).isSome) = some a) : l.findSome? g = g a := by
  induction l with
  | nil => cases h
  | cons b l ih =>
    rw [List.findSome?_cons]
    cases hb : g b with
    | some c =>
      rw [List.find?_cons_of_pos (by rw [hb]; rfl)] at h
      rw [← Option.some.inj h, hb]
    | none => exact ih (by rwa [List.find?_cons_of_neg (by rw [hb]; exact nofun)] at h)

/-- An unfenced grouped channel is on the rail (05 R93). -/
def UsesRail (d : DriveUnit) (r : RailId) (c : ChannelId) : Prop :=
  d.strikes[c].rail = r ∧ d.strikes[c].fenced = false ∧ d.strikes[c].group ≠ none

section

variable {x : PhaseTable} {d : DriveUnit} {r : RailId} {c : ChannelId}

theorem usesRail_iff :
    (d.strikes[c].rail == r && !d.strikes[c].fenced && d.strikes[c].group.isSome) = true ↔ UsesRail d r c := by
  simp [UsesRail, Option.isSome_iff_ne_none, and_assoc]

theorem namesRail_iff : namesRail x r = true ↔ ∃ n : Fin 64, x[n] = some r := by
  rw [namesRail, List.any_eq_true]
  constructor
  · rintro ⟨e, he, hr⟩
    obtain ⟨n, hn, rfl⟩ := Vector.getElem_of_mem (Vector.mem_toList_iff.mp he)
    exact ⟨⟨n, hn⟩, eq_of_beq hr⟩
  · rintro ⟨n, hn⟩
    exact ⟨x[n], Vector.mem_toList_iff.mpr (Vector.getElem_mem n.isLt), beq_iff_eq.mpr hn⟩

theorem groupedChannelOn_lowest (h : UsesRail d r c) (hlow : ∀ e, UsesRail d r e → c ≤ e) :
    groupedChannelOn r d = some c :=
  find?_allFin_of_lowest (usesRail_iff.mpr h) fun e he => hlow e (usesRail_iff.mp he)

theorem groupedChannelOn_isSome : (groupedChannelOn r d).isSome = true ↔ ∃ c, UsesRail d r c := by
  simp only [groupedChannelOn, List.find?_isSome, usesRail_iff]
  simp [allFin]

/-- What `unserved` asks of one rail. -/
theorem unservedOn_isSome :
    (if namesRail x r then none else (groupedChannelOn r d).map fun c => (r, c)).isSome = true ↔
      ∃ c, UsesRail d r c ∧ ∀ n : Fin 64, x[n] ≠ some r := by
  split
  · next hname =>
    obtain ⟨n, hn⟩ := namesRail_iff.mp hname
    exact iff_of_false nofun fun ⟨c, _, h⟩ => h n hn
  · next hname =>
    have hnone : ∀ n : Fin 64, x[n] ≠ some r := fun n hn => hname (namesRail_iff.mpr ⟨n, hn⟩)
    rw [Option.isSome_map, groupedChannelOn_isSome]
    exact ⟨fun ⟨c, hc⟩ => ⟨c, hc, hnone⟩, fun ⟨c, hc, _⟩ => ⟨c, hc⟩⟩

/-- The lowest rail that is used and named in no phase, with its lowest such channel. -/
theorem unserved_lowest (h : UsesRail d r c) (hn : ∀ n : Fin 64, x[n] ≠ some r)
    (hrail : ∀ q e, UsesRail d q e → (∀ n : Fin 64, x[n] ≠ some q) → r ≤ q)
    (hchannel : ∀ e, UsesRail d r e → c ≤ e) : unserved x d = some (r, c) := by
  have hname : ¬ namesRail x r = true := fun hr => (namesRail_iff.mp hr).elim hn
  refine (findSome?_of_find? (find?_allFin_of_lowest (i := r) ?_ fun q hq => ?_)).trans ?_
  · exact unservedOn_isSome.mpr ⟨c, h, hn⟩
  · obtain ⟨e, he, hq⟩ := unservedOn_isSome.mp hq
    exact hrail q e he hq
  · rw [if_neg hname, groupedChannelOn_lowest h hchannel]
    rfl

theorem unserved_none (h : ∀ r c, ¬ (UsesRail d r c ∧ ∀ n : Fin 64, x[n] ≠ some r)) : unserved x d = none := by
  refine List.findSome?_eq_none_iff.mpr fun r _ => Option.not_isSome_iff_eq_none.mp fun hr => ?_
  obtain ⟨c, hc⟩ := unservedOn_isSome.mp hr
  exact h r c hc

end

/-! #### COMMIT PHASES (05 R93) -/

section

variable {f : Frame} {s t u : State} {x : PhaseTable} {code : ReplyCode} {data : List Byte}

theorem commitPhases_answers (h : Offered 0x51 f s t) (hf : f.fields = [])
    (ha : commitPhasesAct f.link t = (u, ⟨code, data⟩)) : Answers 0x51 (.commitPhases f) f s code data u :=
  answers_addressed (decode := commitPhasesBody f.link) h rfl (addressed_allows h) (by rw [hf]; rfl) ha

theorem commitPhasesAct_state (hn : ¬ FromShowInService f t) (hp : ∀ x, t.rail.pendingTable ≠ .loading x) :
    commitPhasesAct f.link t = (t, ⟨.state, []⟩) := by
  rw [commitPhasesAct, unlessTaken_free hn]
  cases hc : t.rail.pendingTable with
  | loading x => exact absurd hc (hp x)
  | empty | committed => rfl

theorem commitPhasesAct_conflict {r : RailId} {c : ChannelId} (hn : ¬ FromShowInService f t)
    (hp : t.rail.pendingTable = .loading x) (hu : unserved x t.drive = some (r, c)) :
    commitPhasesAct f.link t = (t, ⟨.conflict, [finByte r, finByte c]⟩) := by
  rw [commitPhasesAct, unlessTaken_free hn, hp]
  dsimp only
  rw [hu]

theorem commitPhasesAct_commits (hn : ¬ FromShowInService f t) (hp : t.rail.pendingTable = .loading x)
    (hu : unserved x t.drive = none) :
    commitPhasesAct f.link t =
      ({ t with rail := { t.rail with pendingTable := .committed x } }, ⟨.done, []⟩) := by
  rw [commitPhasesAct, unlessTaken_free hn, hp]
  dsimp only
  rw [hu]
  rfl

end

/-- Settles O38: a load by its ranges and the pending table, a commit by the rail that it would leave unserved. -/
theorem phaseTables : Obligations.PhaseTables := by
  unfold Obligations.PhaseTables
  intro f s t hn
  constructor
  · intro offset count entries h hf hl a inRange
    refine ⟨fun hr => loadPhases_answers h hf hl (loadPhasesAct_range hn hr), fun x hr hp => ?_,
      fun es base hr he hp => ?_⟩
    · obtain ⟨h63, h1, h32, h64, hentries⟩ := hr
      obtain ⟨es, rfl⟩ := exists_phaseCodes hentries
      exact loadPhases_answers h hf hl ((loadPhasesAct_eq hn ⟨h63, h1, h32, h64⟩).trans (writePending_committed hp))
    · subst he
      obtain ⟨h63, h1, h32, h64, -⟩ := hr
      refine ⟨writeEntries offset.toNat es base, writeEntries_get _ es base, ?_⟩
      exact loadPhases_answers h hf hl ((loadPhasesAct_eq hn ⟨h63, h1, h32, h64⟩).trans (writePending_loads hp))
  · intro h hf a
    refine ⟨fun hp => commitPhases_answers h hf (commitPhasesAct_state hn hp), fun x hp => ?_⟩
    intro uses unserved
    refine ⟨fun r c hc hrail hchannel => ?_, fun hnone => ?_⟩
    · have hlowest := unserved_lowest hc.1 hc.2 (fun q e he hq => hrail q e ⟨he, hq⟩) hchannel
      exact commitPhases_answers h hf (commitPhasesAct_conflict hn hp hlowest)
    · exact commitPhases_answers h hf (commitPhasesAct_commits hn hp (unserved_none hnone))

end Sys2Proof.Machine

namespace Sys2Proof.Machine

open Safety

/-! ### O39: SET RAIL and CLEAR RAIL LATCH (05 R97, R101, R102) -/

section

variable {f : Frame} {s t u : State} {rail : Byte} {r : RailId} {code : ReplyCode} {data : List Byte}

/-! #### SET RAIL (05 R101) -/

section

variable {l1 l0 d1 d0 : Byte}

theorem setRail_answers (h : Offered 0x53 f s t) (hf : f.fields = [rail, l1, l0, d1, d0])
    (ha : setRailAct f.link rail l1 l0 d1 d0 t = (u, ⟨code, data⟩)) : Answers 0x53 (.setRail f) f s code data u :=
  answers_addressed (decode := setRailBody f.link) h rfl (addressed_allows h) (by rw [hf]; rfl) ha

theorem setRailAct_range (hn : ¬ FromShowInService f t) (hr : 3 < rail.toNat ∨ 4095 < u16 d1 d0) :
    setRailAct f.link rail l1 l0 d1 d0 t = (t, ⟨.range, []⟩) := by
  rw [setRailAct, unlessTaken_free hn]
  cases hrail : toFin 4 rail with
  | none => rfl
  | some r =>
    have hlt := r.isLt
    have hval := toNat_of_toFin hrail
    exact if_neg (by omega)

theorem setRailAct_eq (hn : ¬ FromShowInService f t) (hr : rail.toNat = r.val) (hd : u16 d1 d0 ≤ 4095) :
    setRailAct f.link rail l1 l0 d1 d0 t =
      (changeRail r (.configured (u16 l1 l0) (u16 d1 d0)) t,
        ⟨.done, railData (changeRail r (.configured (u16 l1 l0) (u16 d1 d0)) t) r⟩) := by
  rw [setRailAct, unlessTaken_free hn, toFin_eq hr]
  exact if_pos hd

end

/-! #### CLEAR RAIL LATCH (05 R102) -/

theorem clearRailLatch_answers (h : Offered 0x55 f s t) (hf : f.fields = [rail])
    (ha : clearRailLatchAct f.link rail t = (u, ⟨code, data⟩)) : Answers 0x55 (.clearRailLatch f) f s code data u :=
  answers_addressed (decode := clearRailLatchBody f.link) h rfl (addressed_allows h) (by rw [hf]; rfl) ha

theorem clearRailLatchAct_range (hn : ¬ FromShowInService f t) (hr : 3 < rail.toNat) :
    clearRailLatchAct f.link rail t = (t, ⟨.range, []⟩) := by
  rw [clearRailLatchAct, unlessTaken_free hn, toFin_none hr]
  rfl

theorem clearRailLatchAct_eq (hn : ¬ FromShowInService f t) (hr : rail.toNat = r.val) :
    clearRailLatchAct f.link rail t =
      if t.rail.rails[r].limit < t.rail.rails[r].accumulator then (t, ⟨.state, []⟩)
      else (updRail r (fun x => { x with latch := false }) t, ⟨.done, []⟩) := by
  rw [clearRailLatchAct, unlessTaken_free hn, toFin_eq hr]
  dsimp only
  simp only [Rail.overloaded, decide_eq_true_eq]
  rfl

end

/-- Settles O39: the ranges, and then the record that SET RAIL leaves and the limit that holds a latch. -/
theorem railSettings : Obligations.RailSettings := by
  unfold Obligations.RailSettings
  intro f s t hn
  constructor
  · intro rail l1 l0 d1 d0 h hf a
    refine ⟨fun hr => setRail_answers h hf (setRailAct_range hn hr), fun r hr hd => ?_⟩
    intro x
    exact ⟨_, setRail_answers h hf (setRailAct_eq hn hr hd),
      changeRail_takes r (.configured (u16 l1 l0) (u16 d1 d0)) t⟩
  · intro rail h hf a
    refine ⟨fun hr => clearRailLatch_answers h hf (clearRailLatchAct_range hn hr), fun r hr => ⟨fun hover => ?_,
      fun hin => ?_⟩⟩
    · exact clearRailLatch_answers h hf ((clearRailLatchAct_eq hn hr).trans (if_pos hover))
    · exact clearRailLatch_answers h hf ((clearRailLatchAct_eq hn hr).trans (if_neg (Nat.not_lt.mpr hin)))

end Sys2Proof.Machine

namespace Sys2Proof.Machine

open Safety

/-! ### O40: PHASE_START (05 R89) -/

section

variable {s : State}

/-! #### The switch (05 R94) -/

theorem switchTable_switches {x : PhaseTable} (hi : phaseIndex s.partTime = 0)
    (hp : s.rail.pendingTable = .committed x) :
    switchTable s = setFlag .tableSwitched { s with rail := { s.rail with table := x, pendingTable := .empty } } := by
  rw [switchTable, hi, hp]
  rfl

theorem switchTable_stays (h : phaseIndex s.partTime ≠ 0 ∨ ∀ x, s.rail.pendingTable ≠ .committed x) :
    switchTable s = s := by
  unfold switchTable
  split
  · next x hi hp => exact (h.elim (fun h => h hi) (fun h => h x hp)).elim
  · rfl

theorem switchTable_partTime : (switchTable s).partTime = s.partTime := by
  unfold switchTable
  split <;> rfl

/-! #### The accounting (05 R98) -/

theorem changeRail_partTime (r : RailId) (f : Rail → Rail) (s : State) : (changeRail r f s).partTime = s.partTime := by
  unfold changeRail raiseOverload
  split <;> simp

theorem accountRails_partTime (s : State) : (accountRails s).partTime = s.partTime :=
  List.foldlRecOn (motive := fun t : State => t.partTime = s.partTime) _ _ rfl fun _ h _ _ =>
    (changeRail_partTime _ _ _).trans h

theorem accountRails_table (s : State) : (accountRails s).rail.table = s.rail.table :=
  List.foldlRecOn (motive := fun t : State => t.rail.table = s.rail.table) _ _ rfl fun _ h _ _ =>
    (congrArg RailArbiter.table (changeRail_rail _ _ _)).trans h

/-- The four rails are accounted in turn, rail 0 first. -/
theorem accountRails_accounts (s : State) :
    ∃ v1 v2 v3, Accounts 0 s v1 ∧ Accounts 1 v1 v2 ∧ Accounts 2 v2 v3 ∧ Accounts 3 v3 (accountRails s) :=
  ⟨_, _, _, accounts_rail 0 s, accounts_rail 1 _, accounts_rail 2 _, accounts_rail 3 _⟩

/-! #### The candidates (05 R105) -/

theorem isCandidate_iff {r : RailId} {lane : Lane} {f : Firing} :
    f.isCandidate r lane = true ↔ f.railWaiting = true ∧ ∃ sh ∈ f.kind.shot?, sh.rail = r ∧ sh.lane = lane := by
  unfold Firing.isCandidate Firing.waitsFor
  cases f.kind.shot? <;> simp [and_assoc]

theorem admission_idle {noCurrent : BitVec 96} (h : s.rail.table[phaseIndex s.partTime] = none) :
    admission noCurrent s = s := by
  rw [admission, h]

theorem admission_names {noCurrent : BitVec 96} {r : RailId} (h : s.rail.table[phaseIndex s.partTime] = some r) :
    admission noCurrent s =
      walkGrants noCurrent (if s.rail.rails[r].near = true then 1 else 4) (admissionOrder r s.sched.fireList) s := by
  rw [admission, h]

/-! #### The event -/

theorem execPhaseStart_of_notDue {noCurrent : BitVec 96}
    (h : s.partTime % 250 ≠ 0 ∨ s.rail.lastPhaseStart = some s.partTime) :
    exec (.phaseStart noCurrent) s = .next s := by
  refine if_neg fun hd => ?_
  obtain ⟨hmod, hlast⟩ := phaseDue_iff.mp hd
  exact h.elim (fun h => h hmod) hlast

theorem execPhaseStart_of_due {noCurrent : BitVec 96} (hmod : s.partTime % 250 = 0)
    (hlast : s.rail.lastPhaseStart ≠ some s.partTime) : Completes (.phaseStart noCurrent) s (startPhase noCurrent s) :=
  if_pos (phaseDue_iff.mpr ⟨hmod, hlast⟩)

end

/-- Settles O40: the switch, the four rails in turn, and the admission of the rail that the table in force names. -/
theorem phaseStart : Obligations.PhaseStart := by
  unfold Obligations.PhaseStart
  intro noCurrent s began index waiting
  refine ⟨execPhaseStart_of_notDue, fun hmod hlast => ?_⟩
  have hdue := execPhaseStart_of_due (noCurrent := noCurrent) hmod hlast
  obtain ⟨v1, v2, v3, h0, h1, h2, h3⟩ := accountRails_accounts (switchTable began)
  have hphase : phaseIndex (accountRails (switchTable began)).partTime = index := by
    rw [accountRails_partTime, switchTable_partTime]
    rfl
  have hentry : (accountRails (switchTable began)).rail.table[phaseIndex (accountRails (switchTable began)).partTime] =
      (switchTable began).rail.table[index] := by
    rw [accountRails_table]
    exact congrArg (fun i : Fin 64 => (switchTable began).rail.table[i]) hphase
  refine ⟨switchTable began, v1, v2, v3, accountRails (switchTable began),
    fun x => switchTable_switches (s := began), switchTable_stays (s := began), h0, h1, h2, h3, fun hidle => ?_,
    fun r hr => ?_⟩
  · rwa [startPhase, admission_idle (hentry.trans hidle)] at hdue
  · have hlane : ∀ u lane, u.sched.fireList.filter (Firing.isCandidate r lane) = waiting u r lane := fun u lane =>
      List.filter_congr fun f _ => by rw [Bool.eq_iff_iff, isCandidate_iff, decide_eq_true_eq]
    rwa [startPhase, admission_names (hentry.trans hr), admissionOrder, hlane, hlane] at hdue

end Sys2Proof.Machine

namespace Sys2Proof.Machine

open Safety

/-! ### O54: a fenced channel out of play (06 R117)

A change of one channel is `ChannelKept` when it begins no pulse and fills no slot on a channel without one, and fences
a channel only as it takes it out of play. Everything but a grant changes the channels so (`Quieted`), and a grant
passes a fenced channel over (05 R106). -/

/-- Nothing drives on the channel, and nothing waits in its next-pulse slot. -/
def StrikeChannel.Silent (x : StrikeChannel) : Prop := x.gate = false ∧ x.nextPulse = none

/-- The change of a channel from `x` to `y` gives a silent channel no pulse, and fences it silent or not at all. -/
structure ChannelKept (x y : StrikeChannel) : Prop where
  fence : y.fenced = true → x.fenced = true ∨ y.Silent
  silent : x.Silent → y.Silent

theorem fencedSilent_iff (s : State) :
    FencedSilent s ↔ ∀ c : ChannelId, s.drive.strikes[c].fenced = true → s.drive.strikes[c].Silent := Iff.rfl

/-! #### The operations on one channel -/

section

variable {x y z : StrikeChannel}

theorem ChannelKept.trans (h : ChannelKept x y) (g : ChannelKept y z) : ChannelKept x z where
  fence hz := (g.fence hz).elim (fun hy => (h.fence hy).imp_right g.silent) .inr
  silent hx := g.silent (h.silent hx)

theorem ChannelKept.of_silent (h : y.Silent) : ChannelKept x y := ⟨fun _ => .inr h, fun _ => h⟩

/-- A channel that keeps its fence, and that is as silent as it was. -/
theorem ChannelKept.of_fenced (hf : y.fenced = x.fenced) (hs : x.Silent → y.Silent) : ChannelKept x y :=
  ⟨fun hy => .inl (hf ▸ hy), hs⟩

theorem ChannelKept.refl (x : StrikeChannel) : ChannelKept x x := .of_fenced rfl id

/-- A channel that does not drive afterwards, its slot as it was. -/
theorem ChannelKept.of_gate (hf : y.fenced = x.fenced) (hg : y.gate = false) (hp : y.nextPulse = x.nextPulse) :
    ChannelKept x y := .of_fenced hf fun hx => ⟨hg, hp.trans hx.2⟩

theorem cut_kept (now : Time) (x : StrikeChannel) : ChannelKept x (x.cut now) := by
  unfold StrikeChannel.cut
  split
  · exact .of_gate rfl rfl rfl
  · exact .refl x
  · exact .refl x

theorem takeOut_silent (now : Time) (x : StrikeChannel) : (x.takeOut now).Silent := ⟨cut_gate now x, rfl⟩

theorem shorted_silent (now : Time) (x : StrikeChannel) : (x.shorted now).Silent := ⟨cut_gate now x, rfl⟩

theorem emptySlotOf_kept (src : Source) (x : StrikeChannel) : ChannelKept x (x.emptySlotOf src) := by
  unfold StrikeChannel.emptySlotOf
  split
  · exact .of_fenced rfl fun hx => ⟨hx.1, rfl⟩
  · exact .refl x

theorem dropTest_kept (now : Time) (x : StrikeChannel) : ChannelKept x (x.dropTest now) := by
  have hempty := emptySlotOf_kept .test x
  unfold StrikeChannel.dropTest
  split
  · split
    · exact hempty.trans (cut_kept now _)
    · exact hempty
  · exact hempty
  · exact hempty

theorem configured_kept (g : ChannelSettings) (x : StrikeChannel) : ChannelKept x (x.configured g) := by
  unfold StrikeChannel.configured
  dsimp only
  split <;> exact .of_fenced rfl id

end

/-! #### The whole part -/

/-- Every channel is changed as `ChannelKept` says. -/
def Quieted (s t : State) : Prop := ∀ c : ChannelId, ChannelKept s.drive.strikes[c] t.drive.strikes[c]

section

variable {s t u : State}

theorem Quieted.trans (h : Quieted s t) (g : Quieted t u) : Quieted s u := fun c => (h c).trans (g c)

theorem Quieted.of_strikes (h : t.drive.strikes = s.drive.strikes) : Quieted s t := fun c => by
  rw [h]
  exact .refl _

theorem Quieted.of_drive (h : t.drive = s.drive) : Quieted s t := .of_strikes (by rw [h])

theorem Quieted.refl (s : State) : Quieted s s := .of_drive rfl

theorem Quieted.fenced (h : Quieted s t) (hs : FencedSilent s) : FencedSilent t := fun c hc =>
  ((h c).fence hc).elim (fun hx => (h c).silent (hs c hx)) id

theorem updStrike_quieted {c : ChannelId} {f : StrikeChannel → StrikeChannel}
    (h : ChannelKept s.drive.strikes[c] (f s.drive.strikes[c])) : Quieted s (updStrike c f s) := by
  intro d
  rw [updStrike_drive_strikes, upd_get]
  split
  · next hd => subst hd; exact h
  · exact .refl _

theorem mapAll_quieted {f : StrikeChannel → StrikeChannel} (h : ∀ x, ChannelKept x (f x))
    (ht : t.drive.strikes = mapAll f s.drive.strikes) : Quieted s t := fun c => by
  rw [ht, mapAll_get]
  exact h _

end

/-! #### Cues -/

section

variable (k : SlotId) (s : State)

theorem withdraw_quieted : Quieted s (withdraw k s) := mapAll_quieted (emptySlotOf_kept (.slot k)) rfl

theorem emptySlot_quieted : Quieted s (emptySlot k s) := withdraw_quieted k s

/-- The hand-on of the role reaches holds and rotors, and no strike channel (02 R35, R37). -/
theorem handOn_strikes : (handOn s).drive.strikes = s.drive.strikes := by
  unfold handOn
  split <;> split
  · simp
  · next r rest _ _ _ =>
    obtain ⟨-, -, e⟩ := resume_resumes r rest s
    exact congrArg (·.drive.strikes) e
  · simp
  · rfl

theorem freezeOccupant_quieted : Quieted s (freezeOccupant k s).2 := by
  unfold freezeOccupant
  split
  · exact .refl s
  · exact withdraw_quieted k s

theorem preempt_quieted : Quieted s (preempt k s) := freezeOccupant_quieted k s

theorem takeRole_quieted : Quieted s (takeRole k s) := by
  unfold takeRole
  split
  · next j _ => exact (preempt_quieted j s).trans (.of_drive (by simp))
  · exact .of_drive (by simp)

theorem pauseSlot_quieted : Quieted s (pauseSlot k s) := withdraw_quieted k s

theorem completeCue_quieted : Quieted s (completeCue k s) :=
  (emptySlot_quieted k (setFlag .cueDone s)).trans (.of_strikes (handOn_strikes _))

theorem dropSlot_quieted : Quieted s (dropSlot k s) := by
  have hheld : Quieted s (handOn (emptySlot k s)) := (emptySlot_quieted k s).trans (.of_strikes (handOn_strikes _))
  unfold dropSlot
  split
  · exact hheld
  · exact hheld
  · exact emptySlot_quieted k (leaveStack k s)
  · exact emptySlot_quieted k (leaveWaiting k s)
  · exact emptySlot_quieted k s
  · exact .refl s

end

/-! #### Firings and commits -/

section

variable (s : State)

theorem arrive_quieted (f : Firing) : Quieted s (arrive f s) := by
  unfold arrive
  split
  case h_6 e _ => exact completeCue_quieted e.slot (removeFiring f s)
  all_goals exact .refl s

theorem arriveIfReached_quieted (placed : Option Firing) : Quieted s (arriveIfReached placed s) := by
  unfold arriveIfReached
  split
  · split
    · exact arriveInTurn_law (P := Quieted s) (fun f t _ h => h.trans (arrive_quieted t f)) _ s (.refl s)
    · exact .refl s
  · exact .refl s

theorem commitHead_quieted (k : SlotId) : Quieted s (commitHead k s) := by
  unfold commitHead commitEntry
  split
  · split
    · exact .trans (.of_drive (by simp)) (arriveIfReached_quieted _ _)
    · exact .refl s
  · exact .refl s

end

/-! #### Pulses -/

section

variable (s : State)

/-- A pulse begin reaches its own channel of the drive unit (06 R112). -/
theorem beginPulse_drive (c : ChannelId) (p : Pulse) (noCurrent : Bool) :
    (beginPulse c p noCurrent s).drive = (updStrike c (.beginAt s.now p noCurrent) s).drive := by
  simp [beginPulse]

/-- The end of a recovery begins a pulse only where one waits in the slot (06 R114). -/
theorem endRecovery_quieted (c : ChannelId) (noCurrent : Bool) : Quieted s (endRecovery c noCurrent s) := by
  unfold endRecovery
  split
  · next p hp =>
    generalize hu : updStrike c (fun x => { x with nextPulse := none }) s = u
    refine .trans (t := updStrike c (.beginAt u.now p noCurrent) u) ?_ (.of_drive (beginPulse_drive u c p noCurrent))
    rw [← hu, updStrike_updStrike]
    exact updStrike_quieted (.of_fenced rfl fun hx => absurd (hp.symm.trans hx.2) nofun)
  · exact updStrike_quieted (.of_gate rfl rfl rfl)

theorem settleChannel_quieted (c : ChannelId) (noCurrent : Bool) : Quieted s (settleChannel c noCurrent s) := by
  have hsettled : Quieted s
      (if s.now < s.drive.strikes[c].readyTime then updStrike c (fun x => { x with state := .recover }) s
        else endRecovery c noCurrent s) := by
    split
    · exact updStrike_quieted (.of_gate rfl rfl rfl)
    · exact endRecovery_quieted s c noCurrent
  unfold settleChannel
  split
  · exact .refl s
  · exact hsettled
  · exact hsettled

theorem channel_quieted (c : ChannelId) (g : ChannelSettings) (noCurrent : Bool) :
    Quieted s (settleChannel c noCurrent (updStrike c (.configured g) s)) :=
  (updStrike_quieted (configured_kept g _)).trans (settleChannel_quieted _ c noCurrent)

theorem regrouped_quieted (g : GroupId) (new : Group) : Quieted s (regrouped g new s) := fun c => by
  rw [(regrouped_eq g new s).1 c]
  split
  · exact .of_fenced rfl id
  · split
    · exact .of_fenced rfl id
    · exact .refl _

theorem changeRail_drive (r : RailId) (f : Rail → Rail) : (changeRail r f s).drive = s.drive := by
  unfold changeRail raiseOverload
  split <;> simp

/-- The accounting of the rails reaches neither the drive unit nor the fire list (05 R98). -/
theorem accountRails_keeps : (accountRails s).drive = s.drive ∧ (accountRails s).sched = s.sched :=
  List.foldlRecOn (motive := fun t : State => t.drive = s.drive ∧ t.sched = s.sched) _ _ ⟨rfl, rfl⟩ fun t h r _ =>
    ⟨(changeRail_drive t r _).trans h.1, (changeRail_sched t r _).trans h.2⟩

theorem switchTable_keeps : (switchTable s).drive = s.drive ∧ (switchTable s).sched = s.sched := by
  unfold switchTable
  split <;> exact ⟨rfl, rfl⟩

end

/-! #### Grants -/

section

variable {s : State} {c : ChannelId} {v : BitVec 96}

/-- A pulse may be given to a channel that is not fenced. -/
theorem updStrike_fencedSilent {f : StrikeChannel → StrikeChannel} (hs : FencedSilent s)
    (hf : (f s.drive.strikes[c]).fenced = false) : FencedSilent (updStrike c f s) := by
  rw [fencedSilent_iff]
  intro d
  rw [updStrike_drive_strikes, upd_get]
  split
  · next hd =>
    subst hd
    exact fun ht => absurd (hf.symm.trans ht) nofun
  · exact hs d

theorem grantPulse_fencedSilent {p : Pulse} {noCurrent : Bool} (hs : FencedSilent s)
    (hc : s.drive.strikes[c].fenced = false) : FencedSilent (grantPulse c p noCurrent s) := by
  unfold grantPulse
  split
  · exact Quieted.fenced (.of_drive (beginPulse_drive s c p noCurrent)) (updStrike_fencedSilent hs hc)
  · exact updStrike_fencedSilent hs hc
  · exact hs

theorem grant_fencedSilent {f : Firing} {sh : Shot} (hs : FencedSilent s)
    (hc : s.drive.strikes[sh.channel].fenced = false) : FencedSilent (grant v f sh s) :=
  grantPulse_fencedSilent (s := removeFiring f (updRail sh.rail (.charged sh.charge) s)) hs hc

/-- A walk passes a fenced channel over (05 R106). -/
theorem walkGrants_fencedSilent {n : Nat} {l : List Firing} (hs : FencedSilent s) :
    FencedSilent (walkGrants v n l s) := by
  induction l generalizing n s with
  | nil => rwa [walkGrants_nil]
  | cons f rest ih =>
    cases hk : f.kind.shot? with
    | none =>
      rw [walkGrants, hk]
      exact ih hs
    | some sh =>
      by_cases hp : s.drive.strikes[sh.channel].passedOver = true
      · rw [walkGrants_passes hk hp]
        exact ih hs
      · have hfree : s.drive.strikes[sh.channel].fenced = false :=
          Bool.eq_false_iff.mpr fun hf => hp (passedOver_iff.mpr (.inl hf))
        cases n with
        | zero => rwa [(walkGrants_judges (n := 0) hk hp).1]
        | succ n =>
          rw [(walkGrants_judges hk hp).2]
          split
          · exact ih (grant_fencedSilent hs hfree)
          · exact hs

theorem startPhase_fencedSilent (hs : FencedSilent s) : FencedSilent (startPhase v s) := by
  have hadmit : ∀ t, FencedSilent t → FencedSilent (admission v t) := fun t ht => by
    unfold admission
    split
    · exact walkGrants_fencedSilent ht
    · exact ht
  have hswitched := Quieted.of_drive (switchTable_keeps { s with rail.lastPhaseStart := some s.partTime }).1
  exact hadmit _ ((hswitched.trans (.of_drive (accountRails_keeps _).1)).fenced hs)

end

/-! #### Every change -/

theorem powerOn_silent (a : BitVec 5) (r : BitVec 2) (x y : Bool) (n : Nat) (p : List Instr) (c : ChannelId) :
    (State.powerOn a r x y n p).drive.strikes[c].Silent := by
  rw [powerOn_strike]
  exact ⟨rfl, rfl⟩

theorem beginHush_silent (target : HushTarget) (halt : Bool) (s : State) (c : ChannelId) :
    (beginHush target halt s).drive.strikes[c].Silent := by
  obtain ⟨-, -, -, -, -, hstrikes, -⟩ := beginHush_begins target halt s
  rw [hstrikes c]
  split
  · exact ⟨rfl, rfl⟩
  · next hg => exact ⟨Bool.eq_false_iff.mpr hg, rfl⟩

theorem change_fencedSilent {s t : State} (h : Change s t) (hs : FencedSilent s) : FencedSilent t := by
  induction h with
  | refl => exact hs
  | trans _ _ ih1 ih2 => exact ih2 (ih1 hs)
  | calm h => exact Quieted.fenced (.of_strikes h.strikes) hs
  | powerOn a r x y n p => exact fun c _ => powerOn_silent a r x y n p c
  | phase noCurrent s => exact startPhase_fencedSilent hs
  | hush target halt s => exact fun c _ => beginHush_silent target halt s c
  | takeOut c s => exact (updStrike_quieted (.of_silent (takeOut_silent s.now _))).fenced hs
  | short c s => exact (updStrike_quieted (.of_silent (shorted_silent s.now _))).fenced hs
  | unfence c s => exact updStrike_fencedSilent hs rfl
  | pulseEnd c e s => exact Quieted.fenced (updStrike_quieted (.of_gate rfl rfl rfl)) hs
  | recoveryEnd c noCurrent s => exact (endRecovery_quieted s c noCurrent).fenced hs
  | channel c g noCurrent s => exact (channel_quieted s c g noCurrent).fenced hs
  | group g new s => exact (regrouped_quieted s g new).fenced hs
  | removeTests s => exact (mapAll_quieted (t := removeTests s) (dropTest_kept s.now) rfl).fenced hs
  | takeRole k s => exact (takeRole_quieted k s).fenced hs
  | pause k s => exact (pauseSlot_quieted k s).fenced hs
  | drop k s => exact (dropSlot_quieted k s).fenced hs
  | commit k s => exact (commitHead_quieted s k).fenced hs
  | arrive f s => exact (arrive_quieted s f).fenced hs
  | test sh s => exact (arrive_quieted (placeFiring s.now (.test sh) s) _).fenced hs
  | railSetting r limit drain s => exact Quieted.fenced (.of_drive (changeRail_drive s r _)) hs
  | continue_ k s => exact Quieted.fenced (.of_drive (by simp [continueSlot])) hs
  | accept l b s => exact Quieted.fenced (.of_drive (by simp [acceptFrame])) hs
  | judge s | complete s | takeover s => exact Quieted.fenced (.of_drive (by simp)) hs
  | openCue | events | slotDetails | enterWaiting | window | lanes | railLatch | leave | halt | toHalted | toQuiet =>
    exact hs

/-- Settles O54: every change that a step is made of keeps the channels quiet, or grants to channels without a fence. -/
theorem fencesKept : Obligations.FencesKept := by
  unfold Obligations.FencesKept
  exact law_of_changes fun _ _ => change_fencedSilent

end Sys2Proof.Machine

namespace Sys2Proof.Machine

open Safety

/-! ### O57: a hush silent while it lasts (07 R132)

In HUSHING every slot is EMPTY and the fire list is empty, so no change that starts from a held slot or from a firing
can happen. The changes that can happen keep slots and firings as they are (`RolesWithin`) and begin no pulse
(`Quieted`), or end the hush. -/

section

variable {s t : State} {k : SlotId}

theorem hushingSilent_of_state (h : t.sect.state ≠ .hushing) : HushingSilent t := fun ht => absurd ht h

/-- A change that leaves the role as it was and the channels quiet. -/
theorem hushingSilent_within (hs : HushingSilent s) (h : RolesWithin s t) (hc : Quieted s t) : HushingSilent t := by
  intro ht
  obtain ⟨hslots, hlist, hsilent⟩ := hs (h.section_ ▸ ht)
  refine ⟨fun k => (h.states k).trans (hslots k), List.eq_nil_iff_forall_not_mem.mpr fun f hf => ?_,
    fun c => (hc c).silent (hsilent c)⟩
  obtain ⟨g, hg, -⟩ := h.firings f hf
  rw [hlist] at hg
  exact List.not_mem_nil hg

/-- A held slot shows that no hush lasts. -/
theorem notHushing_of_slot (hs : HushingSilent s) (hk : s.cue.slots[k].state ≠ .empty) :
    s.sect.state ≠ .hushing := fun hh => hk ((hs hh).1 k)

/-- A firing shows that no hush lasts. -/
theorem notHushing_of_firing (hs : HushingSilent s) {f : Firing} (hf : f ∈ s.sched.fireList) :
    s.sect.state ≠ .hushing := fun hh => by
  obtain ⟨-, hlist, -⟩ := hs hh
  rw [hlist] at hf
  exact List.not_mem_nil hf

end

/-! #### Operations that begin no hush -/

section

variable {s : State} {k : SlotId}

theorem startSlot_notHushing (k : SlotId) (s : State) : (startSlot k s).sect.state ≠ .hushing := by
  rw [startSlot_sect]
  exact nofun

/-- The role goes to a slot that sounds, or the section to QUIET (02 R35). -/
theorem handOn_notHushing (s : State) : (handOn s).sect.state ≠ .hushing := by
  unfold handOn
  split <;> split
  · exact startSlot_notHushing _ s
  · next r rest _ _ _ =>
    obtain ⟨-, -, e⟩ := resume_resumes r rest s
    rw [e]
    exact nofun
  · exact startSlot_notHushing _ s
  · exact nofun

theorem takeRole_notHushing (k : SlotId) (s : State) : (takeRole k s).sect.state ≠ .hushing := by
  unfold takeRole
  split <;> exact startSlot_notHushing k _

theorem continueSlot_notHushing (k : SlotId) (s : State) : (continueSlot k s).sect.state ≠ .hushing := by
  rw [continueSlot, sound_sect]
  exact nofun

theorem judgeWaiting_notHushing (h : s.sect.state ≠ .hushing) : (judgeWaiting s).sect.state ≠ .hushing := by
  unfold judgeWaiting
  split
  · exact startSlot_notHushing _ s
  · exact h

theorem arrive_notHushing {f : Firing} (h : s.sect.state ≠ .hushing) : (arrive f s).sect.state ≠ .hushing := by
  unfold arrive
  split
  case h_6 => exact handOn_notHushing _
  all_goals exact h

theorem arriveIfReached_notHushing {placed : Option Firing} (h : s.sect.state ≠ .hushing) :
    (arriveIfReached placed s).sect.state ≠ .hushing := by
  unfold arriveIfReached
  split
  · split
    · exact arriveInTurn_law (P := fun t => t.sect.state ≠ .hushing) (fun f t _ ht => arrive_notHushing ht) _ s h
    · exact h
  · exact h

theorem commitHead_notHushing (h : s.sect.state ≠ .hushing) : (commitHead k s).sect.state ≠ .hushing := by
  unfold commitHead commitEntry
  split
  · split
    · exact arriveIfReached_notHushing (by simpa using h)
    · exact h
  · exact h

theorem hushEnds_notHushing {r : SectionRecord} {u : State} (h : HushEnds r s u) : u.sect.state ≠ .hushing := by
  obtain ⟨hservice, hquiet⟩ := h
  cases ht : r.hushTarget with
  | service =>
    rw [(hservice ht).1]
    exact nofun
  | quiet =>
    rw [(hquiet ht).1]
    dsimp only
    split <;> exact nofun

end

/-! #### Changes that may meet a hush -/

section

variable {s : State}

/-- DROP CUE finds an EMPTY slot, or no hush (02 R41). -/
theorem dropSlot_hushingSilent (hs : HushingSilent s) (k : SlotId) : HushingSilent (dropSlot k s) := by
  by_cases hk : s.cue.slots[k].state = .empty
  · rwa [(dropSlot_eq k s).1 hk]
  · have hno := notHushing_of_slot hs hk
    refine hushingSilent_of_state ?_
    unfold dropSlot
    split
    case h_1 => exact handOn_notHushing _
    case h_2 => exact handOn_notHushing _
    all_goals exact hno

/-- Without a firing an admission grants nothing (05 R105). -/
theorem startPhase_drive (v : BitVec 96) (h : s.sched.fireList = []) : (startPhase v s).drive = s.drive := by
  obtain ⟨hdrive, hsched⟩ := accountRails_keeps (switchTable { s with rail.lastPhaseStart := some s.partTime })
  obtain ⟨hdrive', hsched'⟩ := switchTable_keeps { s with rail.lastPhaseStart := some s.partTime }
  have hempty := (congrArg Scheduler.fireList (hsched.trans hsched')).trans h
  unfold startPhase admission
  split
  · rw [hempty]
    exact (congrArg State.drive walkGrants_nil).trans (hdrive.trans hdrive')
  · exact hdrive.trans hdrive'

theorem startPhase_hushingSilent (hs : HushingSilent s) (v : BitVec 96) : HushingSilent (startPhase v s) := by
  intro ht
  have hwithin := startPhase_rolesWithin v s
  obtain ⟨-, hlist, -⟩ := hs (hwithin.section_ ▸ ht)
  exact hushingSilent_within hs hwithin (.of_drive (startPhase_drive v hlist)) ht

theorem regrouped_rolesWithin (g : GroupId) (new : Group) (s : State) : RolesWithin s (regrouped g new s) := by
  rw [(regrouped_eq g new s).2]
  exact .of_same rfl rfl rfl rfl

theorem beginHush_hushingSilent (target : HushTarget) (halt : Bool) (s : State) :
    HushingSilent (beginHush target halt s) := by
  obtain ⟨hslots, -, -, -, hsched, -⟩ := beginHush_begins target halt s
  refine fun _ => ⟨fun k => ?_, by rw [hsched], beginHush_silent target halt s⟩
  rw [hslots k]
  split
  · next hk => exact hk
  · rfl

theorem completeIfDone_hushingSilent (hs : HushingSilent s) : HushingSilent (completeIfDone s) := by
  unfold completeIfDone
  split
  · exact hushingSilent_of_state (hushEnds_notHushing (completeHush_ends s))
  · exact hs

end

/-! #### Every change -/

theorem change_hushingSilent {s t : State} (h : Change s t) (hs : HushingSilent s) : HushingSilent t := by
  induction h with
  | refl => exact hs
  | trans _ _ ih1 ih2 => exact ih2 (ih1 hs)
  | calm h => exact hushingSilent_within hs (.of_calm h) (.of_strikes h.strikes)
  | phase noCurrent s => exact startPhase_hushingSilent hs noCurrent
  | hush target halt s => exact beginHush_hushingSilent target halt s
  | complete s => exact completeIfDone_hushingSilent hs
  | drop k s => exact dropSlot_hushingSilent hs k
  | openCue k c s _ hno => exact hushingSilent_of_state hno
  | enterWaiting k s _ hk =>
    have hno : s.sect.state ≠ .hushing := notHushing_of_slot hs (k := k) (by rw [hk]; exact nofun)
    exact hushingSilent_of_state hno
  | takeRole k s => exact hushingSilent_of_state (takeRole_notHushing k s)
  | pause k s => exact hushingSilent_of_state nofun
  | continue_ k s => exact hushingSilent_of_state (continueSlot_notHushing k s)
  | judge s hq => exact hushingSilent_of_state (judgeWaiting_notHushing (by rw [hq]; exact nofun))
  | test sh s hserv =>
    exact hushingSilent_of_state (arrive_notHushing (s := placeFiring s.now (.test sh) s) (hserv ▸ nofun))
  | commit k s hk =>
    obtain ⟨e, hdue, -⟩ := commitReady_iff.mp hk
    exact hushingSilent_of_state (commitHead_notHushing (notHushing_of_slot hs (k := k) (by rw [hdue.1]; exact nofun)))
  | arrive f s hf => exact hushingSilent_of_state (arrive_notHushing (notHushing_of_firing hs hf))
  | takeover s => exact hushingSilent_of_state (by rw [enterService_state]; exact nofun)
  | powerOn | toHalted | toQuiet => exact hushingSilent_of_state nofun
  | accept l b s => exact hushingSilent_within hs (acceptFrame_rolesWithin l b s) (.of_drive (by simp [acceptFrame]))
  | events k es s => exact hushingSilent_within hs (updSlot_rolesWithin fun _ => anchorAtBatch_state _ _ _) (.refl s)
  | slotDetails k g s h => exact hushingSilent_within hs (updSlot_rolesWithin fun x => (h x).1) (.refl s)
  | group g new s =>
    exact hushingSilent_within hs (regrouped_rolesWithin g new s) (regrouped_quieted s g new)
  | railSetting r limit drain s =>
    exact hushingSilent_within hs (changeRail_rolesWithin r _ s) (.of_drive (changeRail_drive s r _))
  | channel c g noCurrent s =>
    have hwithin : RolesWithin s (updStrike c (.configured g) s) := .of_same rfl rfl rfl rfl
    exact hushingSilent_within hs (hwithin.trans (settleChannel_rolesWithin c noCurrent _))
      (channel_quieted s c g noCurrent)
  | recoveryEnd c noCurrent s =>
    exact hushingSilent_within hs (endRecovery_rolesWithin c noCurrent s) (endRecovery_quieted s c noCurrent)
  | takeOut c s =>
    exact hushingSilent_within hs (.of_same rfl rfl rfl rfl) (updStrike_quieted (.of_silent (takeOut_silent s.now _)))
  | short c s =>
    exact hushingSilent_within hs (.of_same rfl rfl rfl rfl) (updStrike_quieted (.of_silent (shorted_silent s.now _)))
  | unfence c s =>
    exact hushingSilent_within hs (.of_same rfl rfl rfl rfl) (updStrike_quieted ⟨nofun, id⟩)
  | pulseEnd c e s =>
    exact hushingSilent_within hs (.of_same rfl rfl rfl rfl) (updStrike_quieted (.of_gate rfl rfl rfl))
  | leave f s => exact hushingSilent_within hs (removeFiring_rolesWithin f s) (.refl s)
  | removeTests s =>
    exact hushingSilent_within hs (.of_blocks rfl rfl rfl fun _ hf => (List.mem_filter.mp hf).1)
      (mapAll_quieted (dropTest_kept s.now) rfl)
  | window | lanes | railLatch | halt => exact hs

/-- Settles O57: what a hush has emptied stays empty, and nothing that could fill it finds a slot or a firing. -/
theorem hushKept : Obligations.HushKept := by
  unfold Obligations.HushKept
  exact law_of_changes fun _ _ => change_hushingSilent

end Sys2Proof.Machine

namespace Sys2Proof.Machine

open Safety

/-! ### O42: SET CHANNEL (06 R119, R114) -/

section

variable {f : Frame} {s t u : State} {noCurrent : Bool} {channel rail cls recovery : Byte} {code : ReplyCode}
  {data : List Byte} {c : ChannelId} {r : RailId}

theorem setChannel_answers (h : Offered 0x60 f s t) (hf : f.fields = [channel, rail, cls, recovery])
    (ha : setChannelAct f.link noCurrent channel rail cls recovery t = (u, ⟨code, data⟩)) :
    Answers 0x60 (.setChannel f noCurrent) f s code data u :=
  answers_addressed (decode := setChannelBody f.link noCurrent) h rfl (addressed_allows h) (by rw [hf]; rfl) ha

theorem channelSettings_inRange_iff (g : ChannelSettings) :
    g.inRange = true ↔ 1 ≤ g.currentClass ∧ g.currentClass ≤ 8 ∧ 2 ≤ g.recoveryMs ∧ g.recoveryMs ≤ 60 := by
  simp only [ChannelSettings.inRange, Bool.and_eq_true, decide_eq_true_eq, and_assoc]

/-- Numbers in range: the settings' ranges, the section, and then the record. -/
theorem setChannelAct_eq (hn : ¬ FromShowInService f t) (hc : channel.toNat = c.val) (hr : rail.toNat = r.val)
    (hset : 1 ≤ cls.toNat ∧ cls.toNat ≤ 8 ∧ 2 ≤ recovery.toNat ∧ recovery.toNat ≤ 60) :
    setChannelAct f.link noCurrent channel rail cls recovery t =
      if t.configurable = true then
        (settleChannel c noCurrent
          (updStrike c (.configured { rail := r, currentClass := cls.toNat, recoveryMs := recovery.toNat }) t),
          ⟨.done, []⟩)
      else (t, ⟨.state, []⟩) := by
  rw [setChannelAct, unlessTaken_free hn, toFin_eq hc, toFin_eq hr]
  dsimp only
  rw [if_pos ((channelSettings_inRange_iff _).mpr hset)]
  rfl

theorem setChannelAct_range (hn : ¬ FromShowInService f t)
    (hr : ¬ (channel.toNat ≤ 95 ∧ rail.toNat ≤ 3 ∧ 1 ≤ cls.toNat ∧ cls.toNat ≤ 8 ∧ 2 ≤ recovery.toNat ∧
      recovery.toNat ≤ 60)) :
    setChannelAct f.link noCurrent channel rail cls recovery t = (t, ⟨.range, []⟩) := by
  rw [setChannelAct, unlessTaken_free hn]
  cases hchannel : toFin 96 channel with
  | none => rfl
  | some c =>
    cases hrail : toFin 4 rail with
    | none => rfl
    | some r =>
      have hc := toNat_of_toFin hchannel
      have hr' := toNat_of_toFin hrail
      dsimp only
      rw [if_neg]
      · rfl
      · rw [channelSettings_inRange_iff]
        dsimp only
        omega

end

/-! #### The record (06 R119) -/

section

variable {s : State} {c : ChannelId} {g : ChannelSettings} {noCurrent : Bool}

/-- The ready time that new settings give a channel: its last pulse end and the new recovery (06 R119). -/
def ChannelSettings.readyTime (g : ChannelSettings) (x : StrikeChannel) : Time :=
  match x.lastPulseEnd with
  | some e => e + (g.recoveryMs : Int) * 1000
  | none => 0

/-- The three settings of a record. -/
def ChannelSettings.onto (g : ChannelSettings) (x : StrikeChannel) : StrikeChannel :=
  { x with rail := g.rail, currentClass := g.currentClass, recoveryMs := g.recoveryMs }

theorem configured_driving {x : StrikeChannel} {p : DrivenPulse} (hx : x.state = .driving p) :
    x.configured g = g.onto x := by
  unfold StrikeChannel.configured
  dsimp only
  split
  · rfl
  · next hno => exact (hno p hx).elim
  · next hno => exact (hno p hx).elim

theorem configured_resting {x : StrikeChannel} (hx : ∀ p, x.state ≠ .driving p) :
    x.configured g = { g.onto x with readyTime := g.readyTime x } := by
  unfold StrikeChannel.configured
  dsimp only
  split
  · next p hp => exact absurd hp (hx p)
  · next e he _ =>
    have hready : g.readyTime x = e + (g.recoveryMs : Int) * 1000 := by rw [ChannelSettings.readyTime, he]
    rw [hready]
    rfl
  · next he _ =>
    have hready : g.readyTime x = 0 := by rw [ChannelSettings.readyTime, he]
    rw [hready]
    rfl

/-- A channel that drives is left to its pulse. -/
theorem settleChannel_driving {p : DrivenPulse} (hx : s.drive.strikes[c].state = .driving p) :
    settleChannel c noCurrent s = s := by
  rw [settleChannel, hx]

/-- A channel that does not drive waits for its ready time, or its recovery ends (06 R114). -/
theorem settleChannel_resting (hx : ∀ p, s.drive.strikes[c].state ≠ .driving p) :
    settleChannel c noCurrent s =
      if s.now < s.drive.strikes[c].readyTime then updStrike c (fun x => { x with state := .recover }) s
      else endRecovery c noCurrent s := by
  unfold settleChannel
  split
  · next p hp => exact absurd hp (hx p)
  · rfl
  · rfl

theorem endRecovery_empty (hp : s.drive.strikes[c].nextPulse = none) :
    endRecovery c noCurrent s = updStrike c (fun x => { x with state := .idle }) s := by
  rw [endRecovery, hp]

theorem endRecovery_begins {p : Pulse} (hp : s.drive.strikes[c].nextPulse = some p) :
    Begins c p noCurrent (updStrike c (fun x => { x with nextPulse := none }) s) (endRecovery c noCurrent s) := by
  rw [endRecovery, hp]
  exact beginPulse_begins c p noCurrent _

end

section

variable {t : State} {c : ChannelId} {g : ChannelSettings} {noCurrent : Bool}

/-- SET CHANNEL on a channel that drives: the three settings, and nothing else. -/
theorem settle_configured_driving {p : DrivenPulse} (hx : t.drive.strikes[c].state = .driving p) :
    settleChannel c noCurrent (updStrike c (.configured g) t) = updStrike c g.onto t := by
  rw [updStrike_congr (configured_driving hx)]
  refine settleChannel_driving (p := p) ?_
  rw [updStrike_drive_strikes, upd_get_self]
  exact hx

/-- The channel as SET CHANNEL leaves it before its recovery is looked at. -/
theorem updStrike_configured_resting (hx : ∀ p, t.drive.strikes[c].state ≠ .driving p) :
    updStrike c (.configured g) t =
      updStrike c (fun y => { g.onto y with readyTime := g.readyTime t.drive.strikes[c] }) t :=
  updStrike_congr (configured_resting hx)

/-- SET CHANNEL on a channel that does not drive: it waits for its new ready time, or its recovery ends. -/
theorem settle_configured_resting (hx : ∀ p, t.drive.strikes[c].state ≠ .driving p) :
    settleChannel c noCurrent (updStrike c (.configured g) t) =
      if t.now < g.readyTime t.drive.strikes[c] then
        updStrike c (fun y => { g.onto y with readyTime := g.readyTime t.drive.strikes[c], state := .recover }) t
      else
        endRecovery c noCurrent
          (updStrike c (fun y => { g.onto y with readyTime := g.readyTime t.drive.strikes[c] }) t) := by
  rw [updStrike_configured_resting hx, settleChannel_resting, updStrike_updStrike, updStrike_drive_strikes,
    upd_get_self]
  · rfl
  · rw [updStrike_drive_strikes, upd_get_self]
    exact hx

end

/-- Settles O42: the ranges, the section, and then the record and what becomes of its recovery. -/
theorem setChannel : Obligations.SetChannel := by
  unfold Obligations.SetChannel
  intro f s t noCurrent channel rail cls recovery h hn hf a inRange
  refine ⟨fun hr => setChannel_answers h hf (setChannelAct_range hn hr), fun hr hs => ?_, fun c r hr hs hc hrail => ?_⟩
  · obtain ⟨hchannel, hrail, hset⟩ := hr
    refine setChannel_answers h hf ((setChannelAct_eq hn (c := ⟨channel.toNat, Nat.lt_succ_of_le hchannel⟩)
      (r := ⟨rail.toNat, Nat.lt_succ_of_le hrail⟩) rfl rfl hset).trans (if_neg ?_))
    exact mt (configurable_iff t).mp hs
  · obtain ⟨-, -, hset⟩ := hr
    intro x set ready
    let g : ChannelSettings := { rail := r, currentClass := cls.toNat, recoveryMs := recovery.toNat }
    have hdone : ∀ u, settleChannel c noCurrent (updStrike c (.configured g) t) = u → a .done [] u := by
      rintro u rfl
      exact setChannel_answers h hf
        ((setChannelAct_eq hn hc hrail hset).trans (if_pos ((configurable_iff t).mpr hs)))
    refine ⟨fun ⟨p, hx⟩ => hdone _ (settle_configured_driving hx), fun hx hready => hdone _ ?_,
      fun hx hready hp => hdone _ ?_, fun p hx hready hp => ?_⟩
    · exact (settle_configured_resting hx).trans (if_pos hready)
    · refine (settle_configured_resting hx).trans ((if_neg (Int.not_lt.mpr hready)).trans
        ((endRecovery_empty ?_).trans (updStrike_updStrike c _ _ t)))
      rw [updStrike_drive_strikes, upd_get_self]
      exact hp
    · refine ⟨_, ?_, hdone _ ((settle_configured_resting hx).trans (if_neg (Int.not_lt.mpr hready)))⟩
      have hbegins := endRecovery_begins (c := c) (p := p) (noCurrent := noCurrent)
        (s := updStrike c (fun y => { g.onto y with readyTime := g.readyTime t.drive.strikes[c] }) t)
        (by rw [updStrike_drive_strikes, upd_get_self]; exact hp)
      rw [updStrike_updStrike] at hbegins
      exact hbegins

end Sys2Proof.Machine

namespace Sys2Proof.Machine

open Safety

/-! ### O43: FENCE, UNFENCE and SHORT_REPORT (06 R115 to R118) -/

section

variable {f : Frame} {s t u : State} {channel : Byte} {code : ReplyCode} {data : List Byte} {c : ChannelId}

theorem fence_answers (h : Offered 0x62 f s t) (hf : f.fields = [channel])
    (ha : fenceAct channel t = (u, ⟨code, data⟩)) : Answers 0x62 (.fence f) f s code data u :=
  answers_addressed (decode := fenceBody) h rfl (addressed_allows h) (by rw [hf]; rfl) ha

theorem unfence_answers (h : Offered 0x63 f s t) (hf : f.fields = [channel])
    (ha : unfenceAct f.link channel t = (u, ⟨code, data⟩)) : Answers 0x63 (.unfence f) f s code data u :=
  answers_addressed (decode := unfenceBody f.link) h rfl (addressed_allows h) (by rw [hf]; rfl) ha

theorem fenceAct_range (hr : 95 < channel.toNat) : fenceAct channel t = (t, ⟨.range, []⟩) := by
  rw [fenceAct, toFin_none hr]
  rfl

theorem fenceAct_eq (hc : channel.toNat = c.val) :
    fenceAct channel t = (updStrike c (.takeOut t.now) t, ⟨.done, []⟩) := by
  rw [fenceAct, toFin_eq hc]
  rfl

theorem unfenceAct_range (hn : ¬ FromShowInService f t) (hr : 95 < channel.toNat) :
    unfenceAct f.link channel t = (t, ⟨.range, []⟩) := by
  rw [unfenceAct, unlessTaken_free hn, toFin_none hr]
  rfl

theorem unfenceAct_eq (hn : ¬ FromShowInService f t) (hc : channel.toNat = c.val) :
    unfenceAct f.link channel t = (updStrike c (fun x => { x with fenced := false }) t, ⟨.done, []⟩) := by
  rw [unfenceAct, unlessTaken_free hn, toFin_eq hc]
  rfl

end

section

variable {x : StrikeChannel}

/-- A channel taken out of play: cut if it drives, its slot empty, fenced (06 R115, R117). -/
theorem takeOut_eq (now : Time) :
    x.takeOut now =
      if x.gate = true then
        { x with
          state := .recover, lastPulseEnd := some now, readyTime := now + (x.recoveryMs : Int) * 1000,
          nextPulse := none, fenced := true }
      else { x with nextPulse := none, fenced := true } := by
  have hcut := congrArg (fun y : StrikeChannel => { y with fenced := true }) (cut_emptied now x)
  refine hcut.trans ?_
  split <;> rfl

/-- The width of the pulse that a short cuts (06 R115 step 5). -/
theorem shortWidth_driving {p : DrivenPulse} (hx : x.state = .driving p) : x.shortWidth = p.pulse.width := by
  rw [StrikeChannel.shortWidth, hx]

/-- With no pulse in drive, the width of the last one that drove. -/
theorem shortWidth_resting (hx : ∀ p, x.state ≠ .driving p) : x.shortWidth = x.lastWidth := by
  unfold StrikeChannel.shortWidth
  split
  · next p hp => exact absurd hp (hx p)
  · rfl
  · rfl

end

/-- Settles O43: the channel number, and then the channel out of play, in play, or out of play with an error. -/
theorem fenceAndShort : Obligations.FenceAndShort := by
  unfold Obligations.FenceAndShort
  intro f s t channel hf out
  have hout : ∀ now, StrikeChannel.takeOut now = out now := fun now => funext fun x => takeOut_eq now
  refine ⟨fun h => ⟨fun hr => fence_answers h hf (fenceAct_range hr), fun c hc => ?_⟩,
    fun h hn => ⟨fun hr => unfence_answers h hf (unfenceAct_range hn hr),
      fun c hc => unfence_answers h hf (unfenceAct_eq hn hc)⟩, fun c width hdriven hlast => ?_⟩
  · have ha := fence_answers h hf (fenceAct_eq (t := t) hc)
    rwa [hout] at ha
  · have hwidth : s.drive.strikes[c].shortWidth = width := by
      by_cases hx : ∃ p, s.drive.strikes[c].state = .driving p
      · obtain ⟨p, hp⟩ := hx
        exact (shortWidth_driving hp).trans (hdriven p hp).symm
      · have hx := not_exists.mp hx
        exact (shortWidth_resting hx).trans (hlast hx).symm
    have hshort : StrikeChannel.shorted s.now = fun x => { out s.partTime x with lastSense := .shorted } := by
      rw [← hout]
      rfl
    refine completesRaising_of ?_
    rw [← hwidth, ← hshort]
    rfl

end Sys2Proof.Machine

namespace Sys2Proof.Machine

open Safety

/-! ### O44: PULSE_END and RECOVERY_END (06 R113, R114) -/

section

variable {s : State} {c : ChannelId} {noCurrent : Bool}

theorem execPulseEnd_of_due {p : DrivenPulse} (hx : s.drive.strikes[c].state = .driving p)
    (hp : p.endTime ≤ (s.partTime : Int)) : Completes (.pulseEnd c) s (updStrike c (.stopAt p.endTime) s) := by
  have hdue : pulseEndDue s c = some p.endTime := by
    rw [pulseEndDue, hx]
    exact if_pos hp
  change execPulseEnd c s = _
  rw [execPulseEnd, hdue]
  rfl

theorem execPulseEnd_of_notDue (h : ∀ p, s.drive.strikes[c].state = .driving p → (s.partTime : Int) < p.endTime) :
    exec (.pulseEnd c) s = .next s := by
  have hdue : pulseEndDue s c = none := by
    rw [← Option.not_isSome_iff_eq_none, pulseEndDue_isSome]
    rintro ⟨p, hx, hp⟩
    exact Int.not_le.mpr (h p hx) hp
  change execPulseEnd c s = _
  rw [execPulseEnd, hdue]

theorem execRecoveryEnd_of_due (hx : s.drive.strikes[c].state = .recover)
    (hr : s.drive.strikes[c].readyTime ≤ (s.partTime : Int)) :
    Completes (.recoveryEnd c noCurrent) s (endRecovery c noCurrent s) :=
  if_pos (recoveryDue_iff.mpr ⟨hx, hr⟩)

theorem execRecoveryEnd_of_notDue
    (h : s.drive.strikes[c].state ≠ .recover ∨ (s.partTime : Int) < s.drive.strikes[c].readyTime) :
    exec (.recoveryEnd c noCurrent) s = .next s := by
  refine if_neg fun hd => ?_
  obtain ⟨hx, hr⟩ := recoveryDue_iff.mp hd
  exact h.elim (fun h => h hx) fun h => Int.not_le.mpr h hr

end

/-- Settles O44: the two events at their times, and before them. -/
theorem pulseEvents : Obligations.PulseEvents := by
  unfold Obligations.PulseEvents
  intro c noCurrent s x
  refine ⟨fun p hx hp => execPulseEnd_of_due hx hp, execPulseEnd_of_notDue, fun hx hr => ?_,
    execRecoveryEnd_of_notDue⟩
  have hdue := execRecoveryEnd_of_due (noCurrent := noCurrent) hx hr
  refine ⟨fun hp => ?_, fun p hp => ⟨_, endRecovery_begins hp, hdue⟩⟩
  rwa [endRecovery_empty hp] at hdue

end Sys2Proof.Machine

namespace Sys2Proof.Machine

open Safety

/-! ### O46: hold and rotor channels (06 R122 to R126, R129, 07 R134) -/

section

variable {f : Frame} {s t u : State} {channel rail load1 load0 step on target : Byte} {code : ReplyCode}
  {data : List Byte} {h : HoldId} {m : RotorId} {r : RailId}

/-! #### SET HOLD CHANNEL and SET ROTOR CHANNEL (06 R122, R126) -/

theorem setHoldChannel_answers (ho : Offered 0x64 f s t) (hf : f.fields = [channel, rail, load1, load0])
    (ha : setHoldChannelAct f.link channel rail load1 load0 t = (u, ⟨code, data⟩)) :
    Answers 0x64 (.setHoldChannel f) f s code data u :=
  answers_addressed (decode := setHoldChannelBody f.link) ho rfl (addressed_allows ho) (by rw [hf]; rfl) ha

theorem setRotorChannel_answers (ho : Offered 0x65 f s t) (hf : f.fields = [channel, rail, load1, load0, step])
    (ha : setRotorChannelAct f.link channel rail load1 load0 step t = (u, ⟨code, data⟩)) :
    Answers 0x65 (.setRotorChannel f) f s code data u :=
  answers_addressed (decode := setRotorChannelBody f.link) ho rfl (addressed_allows ho) (by rw [hf]; rfl) ha

theorem setHoldChannelAct_range (hn : ¬ FromShowInService f t)
    (hr : ¬ (channel.toNat ≤ 3 ∧ rail.toNat ≤ 3 ∧ u16 load1 load0 ≤ 1023)) :
    setHoldChannelAct f.link channel rail load1 load0 t = (t, ⟨.range, []⟩) := by
  rw [setHoldChannelAct, unlessTaken_free hn]
  split
  · next h r hchannel hrail =>
    have hc := toNat_of_toFin hchannel
    have hq := toNat_of_toFin hrail
    exact if_neg (by omega)
  · rfl

/-- Numbers in range: the section, and then the record. -/
theorem setHoldChannelAct_eq (hn : ¬ FromShowInService f t) (hc : channel.toNat = h.val) (hr : rail.toNat = r.val)
    (hload : u16 load1 load0 ≤ 1023) :
    setHoldChannelAct f.link channel rail load1 load0 t =
      if t.configurable = true then
        (updHold h (fun x => { x with rail := r, load := u16 load1 load0 }) t, ⟨.done, []⟩)
      else (t, ⟨.state, []⟩) := by
  rw [setHoldChannelAct, unlessTaken_free hn, toFin_eq hc, toFin_eq hr]
  exact if_pos hload

theorem setRotorChannelAct_range (hn : ¬ FromShowInService f t)
    (hr : ¬ (channel.toNat ≤ 1 ∧ rail.toNat ≤ 3 ∧ u16 load1 load0 ≤ 1023 ∧ 1 ≤ step.toNat ∧ step.toNat ≤ 40)) :
    setRotorChannelAct f.link channel rail load1 load0 step t = (t, ⟨.range, []⟩) := by
  rw [setRotorChannelAct, unlessTaken_free hn]
  split
  · next m r hchannel hrail =>
    have hc := toNat_of_toFin hchannel
    have hq := toNat_of_toFin hrail
    exact if_neg (by omega)
  · rfl

/-- Numbers in range: the section, and then the record. -/
theorem setRotorChannelAct_eq (hn : ¬ FromShowInService f t) (hc : channel.toNat = m.val) (hr : rail.toNat = r.val)
    (hset : u16 load1 load0 ≤ 1023 ∧ 1 ≤ step.toNat ∧ step.toNat ≤ 40) :
    setRotorChannelAct f.link channel rail load1 load0 step t =
      if t.configurable = true then
        (updRotor m (fun x => { x with rail := r, load := u16 load1 load0, rampStep := step.toNat }) t, ⟨.done, []⟩)
      else (t, ⟨.state, []⟩) := by
  rw [setRotorChannelAct, unlessTaken_free hn, toFin_eq hc, toFin_eq hr]
  exact if_pos hset

/-! #### TEST HOLD and TEST ROTOR (06 R129) -/

theorem testHold_answers (ho : Offered 0x67 f s t) (hlink : f.link = .servicePort) (hf : f.fields = [channel, on])
    (ha : testHoldAct channel on t = (u, ⟨code, data⟩)) : Answers 0x67 (.testHold f) f s code data u :=
  answers_addressed (decode := testHoldBody) ho rfl (beq_iff_eq.mpr hlink) (by rw [hf]; rfl) ha

theorem testRotor_answers (ho : Offered 0x68 f s t) (hlink : f.link = .servicePort) (hf : f.fields = [channel, target])
    (ha : testRotorAct channel target t = (u, ⟨code, data⟩)) : Answers 0x68 (.testRotor f) f s code data u :=
  answers_addressed (decode := testRotorBody) ho rfl (beq_iff_eq.mpr hlink) (by rw [hf]; rfl) ha

theorem testHoldAct_range (hr : 3 < channel.toNat ∨ 1 < on.toNat) : testHoldAct channel on t = (t, ⟨.range, []⟩) := by
  rw [testHoldAct]
  rcases hr with hr | hr
  · rw [toFin_none hr]
    rfl
  · rw [yesNo_none hr]
    split
    · next hb => cases hb
    · rfl

theorem testHoldAct_eq {b : Bool} (hc : channel.toNat = h.val) (hb : on = boolByte b) :
    testHoldAct channel on t =
      if t.sect.state = .service then (switchHold h b t, ⟨.done, []⟩) else (t, ⟨.state, []⟩) := by
  rw [testHoldAct, toFin_eq hc, hb, yesNo_boolByte]
  rfl

theorem testRotorAct_range (hr : 1 < channel.toNat ∨ 120 < target.toNat) :
    testRotorAct channel target t = (t, ⟨.range, []⟩) := by
  rw [testRotorAct]
  cases hchannel : toFin 2 channel with
  | none => rfl
  | some m =>
    have hlt := m.isLt
    have hc := toNat_of_toFin hchannel
    exact if_neg (by omega)

/-- The rotor takes its target, and the reply names the target and the speed as it is (06 R124, R129). -/
theorem testRotorAct_eq (hc : channel.toNat = m.val) (ht : target.toNat ≤ 120) :
    testRotorAct channel target t =
      if t.sect.state = .service then
        (updRotor m (rotorTo t.partTime target.toNat) t, ⟨.done, [target, byteOf t.drive.rotors[m].current]⟩)
      else (t, ⟨.state, []⟩) := by
  have hself : (setRotorTarget m target.toNat t).drive.rotors[m] =
      rotorTo t.partTime target.toNat t.drive.rotors[m] := by
    rw [setRotorTarget_drive_rotors, upd_get_self]
    rfl
  rw [testRotorAct, toFin_eq hc]
  dsimp only
  rw [if_pos ht, hself]
  simp only [rotorTo, byteOf_toNat]
  rfl

end

/-! #### RAMP_TIMER_EXPIRY (06 R125, 07 R134) -/

section

variable {s : State} {m : RotorId}

/-- One ramp step, in the words of the statement. -/
theorem ramp_eq (e : Time) (x : RotorChannel) :
    x.ramp e =
      { x with
        current := x.stepped
        hushRamp := if x.stepped = x.target then false else x.hushRamp
        timer := if x.stepped = x.target then none else some (e + 100000) } := by
  unfold RotorChannel.ramp
  split <;> rfl

theorem hushComplete_iff :
    hushComplete s = true ↔ s.sect.state = .hushing ∧ (∀ c : ChannelId, s.drive.strikes[c].gate = false) ∧
      ∀ n : RotorId, s.drive.rotors[n].current = 0 := by
  rw [hushComplete, Bool.and_eq_true, Bool.and_eq_true, beq_iff_eq, silent_iff, rotorsAtRest_iff, and_assoc]

/-- The completion of a hush reaches the section and the fault monitor (07 R134). -/
theorem completeHush_eq (s : State) :
    completeHush s = { s with sect := (completeHush s).sect, fault := (completeHush s).fault } := by
  unfold completeHush
  dsimp only
  split <;> rfl

/-- A ramp step after which a hush is complete completes it: the speed that reached 0 is among those at rest. -/
theorem rampRotor_completes {e : Time} (h : hushComplete (updRotor m (.ramp e) s) = true) :
    rampRotor m e s = completeHush (updRotor m (.ramp e) s) := by
  obtain ⟨-, -, hrest⟩ := hushComplete_iff.mp h
  exact (if_pos (hrest m)).trans (if_pos h)

theorem rampRotor_runs {e : Time} (h : ¬ hushComplete (updRotor m (.ramp e) s) = true) :
    rampRotor m e s = updRotor m (.ramp e) s := by
  unfold rampRotor completeIfDone
  dsimp only
  rw [if_neg h, ite_self]

theorem execRampTimerExpiry_of_due {e : Time} (ht : s.drive.rotors[m].timer = some e) (he : e ≤ (s.partTime : Int)) :
    Completes (.rampTimerExpiry m) s (rampRotor m e s) := by
  have hdue : timerDue s.now s.drive.rotors[m].timer = some e := by
    rw [ht]
    exact if_pos he
  change execRampTimerExpiry m s = _
  rw [execRampTimerExpiry, hdue]
  rfl

theorem execRampTimerExpiry_of_notDue (h : s.drive.rotors[m].timer = none ∨
      ∃ e, s.drive.rotors[m].timer = some e ∧ (s.partTime : Int) < e) :
    exec (.rampTimerExpiry m) s = .next s := by
  have hdue : timerDue s.now s.drive.rotors[m].timer = none := by
    rcases h with h | ⟨e, h, he⟩ <;> rw [h]
    · rfl
    · exact if_neg (Int.not_le.mpr he)
  change execRampTimerExpiry m s = _
  rw [execRampTimerExpiry, hdue]

end

/-- Settles O46: the requests by their checks, and the ramp timer by its step and the hush that the step may end. -/
theorem holdsAndRotors : Obligations.HoldsAndRotors := by
  unfold Obligations.HoldsAndRotors
  intro f s t
  refine ⟨fun channel rail load1 load0 ho hn hf => ?_, fun channel rail load1 load0 step ho hn hf => ?_,
    fun channel on ho hlink hf => ?_, fun channel target ho hlink hf => ?_, fun m => ?_⟩
  · intro a inRange
    refine ⟨fun hr => setHoldChannel_answers ho hf (setHoldChannelAct_range hn hr), fun hr hs => ?_,
      fun h r hr hs hc hq => ?_⟩
    · obtain ⟨hchannel, hrail, hload⟩ := hr
      exact setHoldChannel_answers ho hf ((setHoldChannelAct_eq hn (h := ⟨channel.toNat, Nat.lt_succ_of_le hchannel⟩)
        (r := ⟨rail.toNat, Nat.lt_succ_of_le hrail⟩) rfl rfl hload).trans (if_neg (mt (configurable_iff t).mp hs)))
    · obtain ⟨-, -, hload⟩ := hr
      exact setHoldChannel_answers ho hf
        ((setHoldChannelAct_eq hn hc hq hload).trans (if_pos ((configurable_iff t).mpr hs)))
  · intro a inRange
    refine ⟨fun hr => setRotorChannel_answers ho hf (setRotorChannelAct_range hn hr), fun hr hs => ?_,
      fun m r hr hs hc hq => ?_⟩
    · obtain ⟨hchannel, hrail, hset⟩ := hr
      exact setRotorChannel_answers ho hf ((setRotorChannelAct_eq hn (m := ⟨channel.toNat, Nat.lt_succ_of_le hchannel⟩)
        (r := ⟨rail.toNat, Nat.lt_succ_of_le hrail⟩) rfl rfl hset).trans (if_neg (mt (configurable_iff t).mp hs)))
    · obtain ⟨-, -, hset⟩ := hr
      exact setRotorChannel_answers ho hf
        ((setRotorChannelAct_eq hn hc hq hset).trans (if_pos ((configurable_iff t).mpr hs)))
  · intro a
    exact ⟨fun hr => testHold_answers ho hlink hf (testHoldAct_range hr), fun h b hc hb =>
      ⟨fun hs => testHold_answers ho hlink hf ((testHoldAct_eq hc hb).trans (if_neg hs)),
        fun hs => testHold_answers ho hlink hf ((testHoldAct_eq hc hb).trans (if_pos hs))⟩⟩
  · intro a
    exact ⟨fun hr => testRotor_answers ho hlink hf (testRotorAct_range hr), fun m hc ht =>
      ⟨fun hs => testRotor_answers ho hlink hf ((testRotorAct_eq hc ht).trans (if_neg hs)),
        fun hs => testRotor_answers ho hlink hf ((testRotorAct_eq hc ht).trans (if_pos hs))⟩⟩
  · intro x step speed
    refine ⟨fun e ht he => ?_, execRampTimerExpiry_of_notDue⟩
    intro u done
    have hdue := execRampTimerExpiry_of_due ht he
    have hu : updRotor m (.ramp e) s = u := updRotor_congr (ramp_eq e x)
    have hdone : hushComplete (updRotor m (.ramp e) s) = true ↔ done := by
      rw [hu]
      exact hushComplete_iff
    refine ⟨fun hno => ?_, fun hyes => ⟨completeHush u, completeHush_ends u, completeHush_eq u, ?_⟩⟩
    · rwa [rampRotor_runs (mt hdone.mp hno), hu] at hdue
    · rwa [rampRotor_completes (hdone.mpr hyes), hu] at hdue

end Sys2Proof.Machine

namespace Sys2Proof.Machine

open Safety

/-! ### O6 and O47: the causes of a hush (07 R131, R133, R135, R144, 08 R149)

During HUSHING a cause restarts nothing; elsewhere it begins a hush with the section's own target. -/

section

variable {s : State}

theorem causeHush_of_hushing (h : s.sect.state = .hushing) : causeHush s = s := if_pos h

theorem causeHush_begins (s : State) (h : s.sect.state ≠ .hushing) :
    HushBegins (if s.sect.state = .service then .service else .quiet) false s (causeHush s) := by
  rw [causeHush, if_neg h]
  exact beginHush_begins _ false s

theorem fatalCause_of_hushing (h : s.sect.state = .hushing) :
    fatalCause s = { s with sect := { s.sect with haltPending := true } } := if_pos h

theorem fatalCause_begins (s : State) (h : s.sect.state ≠ .hushing) :
    HushBegins (if s.sect.state = .service then .service else .quiet) true s (fatalCause s) := by
  rw [fatalCause, if_neg h]
  exact beginHush_begins _ true s

/-- A cause that is due is delivered, and is due no longer (08 R149). -/
theorem deliverFatal_of_due (h : s.fault.fatalDue = true) :
    deliverFatal s = fatalCause { s with fault := { s.fault with fatalDue := false } } := if_pos h

end

/-- Settles O6: the cause is delivered to the section as it stands. -/
theorem fatalCause_holds : Obligations.FatalCause := by
  unfold Obligations.FatalCause
  intro u hdue
  rw [deliverFatal_of_due hdue]
  exact ⟨fun hs => fatalCause_of_hushing hs, fatalCause_begins { u with fault := { u.fault with fatalDue := false } }⟩

/-! #### HUSH and SECTION RESET (07 R135, R144) -/

section

variable {f : Frame} {s t u : State} {code : ReplyCode} {data : List Byte}

theorem hush_answers (h : Offered 0x71 f s t) (hf : f.fields = []) :
    Answers 0x71 (.hush f) f s .done [] (causeHush t) :=
  answers_addressed (p := .everyForm) (decode := hushBody) h rfl rfl (by rw [hf]; rfl) rfl

theorem hush_completes (h : OfferedToAll 0x71 f s t) (hf : f.fields = []) : Completes (.hush f) s (causeHush t) :=
  completes_broadcast (p := .everyForm) (decode := hushBody) h rfl rfl (by rw [hf]; rfl) rfl

theorem sectionReset_answers (h : Offered 0x72 f s t) (hf : f.fields = [])
    (ha : sectionResetAct f.link t = (u, ⟨code, data⟩)) : Answers 0x72 (.sectionReset f) f s code data u :=
  answers_addressed (decode := sectionResetBody f.link) h rfl (addressed_allows h) (by rw [hf]; rfl) ha

theorem sectionResetAct_refuses (hn : ¬ FromShowInService f t)
    (h : t.sect.state = .hushing ∨ t.sect.state = .halted) : sectionResetAct f.link t = (t, ⟨.state, []⟩) := by
  rw [sectionResetAct, unlessTaken_free hn]
  exact if_pos h

theorem sectionResetAct_resets (hn : ¬ FromShowInService f t)
    (h : ¬ (t.sect.state = .hushing ∨ t.sect.state = .halted)) :
    sectionResetAct f.link t = (resetSection t, ⟨.done, []⟩) := by
  rw [sectionResetAct, unlessTaken_free hn]
  exact if_neg h

/-- The flags but 3 to 11 stay (07 R144). -/
theorem resetSection_begins (t : State) :
    HushBegins (if t.sect.state = .service then .service else .quiet) false
      { t with fault := { t.fault with flags := t.fault.flags &&& 0xF007 } } (resetSection t) := by
  have hflags : ~~~sectionResetFlags = 0xF007 := rfl
  rw [resetSection, hflags]
  exact beginHush_begins _ false _

end

/-- Settles O47: each request is its hush, begun or refused by the section's state. -/
theorem hushRequests : Obligations.HushRequests := by
  unfold Obligations.HushRequests
  intro f s t hf own
  refine ⟨fun ho => ⟨fun hs => ?_, fun hs => ⟨_, causeHush_begins t hs, hush_answers ho hf⟩⟩,
    fun ho => ⟨fun hs => ?_, fun hs => ⟨_, causeHush_begins t hs, hush_completes ho hf⟩⟩,
    fun ho hn => ⟨fun hs => sectionReset_answers ho hf (sectionResetAct_refuses hn hs), fun hh hl =>
      ⟨_, resetSection_begins t, sectionReset_answers ho hf (sectionResetAct_resets hn (not_or.mpr ⟨hh, hl⟩))⟩⟩⟩
  · have h := hush_answers ho hf
    rwa [causeHush_of_hushing hs] at h
  · have h := hush_completes ho hf
    rwa [causeHush_of_hushing hs] at h

end Sys2Proof.Machine

namespace Sys2Proof.Machine

open Safety

/-! ### O48: TAKE (07 R138, Table 7.3.1) -/

section

variable {f : Frame} {s t u : State} {forced : Byte} {b : Bool} {code : ReplyCode} {data : List Byte}

/-- A stopped timer starts, and a running one runs on (07 R131). -/
theorem startTimer_eq (now : Time) (r : SectionRecord) :
    r.startTimer now = { r with silenceTimer := some (r.silenceTimer.getD (now + 2000000)) } := by
  obtain ⟨state, target, halt, takeover, breakHush, timer⟩ := r
  cases timer <;> rfl

theorem enterService_eq (t : State) :
    enterService t = { t with
      sect := { t.sect with
        state := .service, takeover := .held, silenceTimer := some (t.sect.silenceTimer.getD (t.now + 2000000)) }
      fault := { t.fault with flags := t.fault.flags ||| AttentionFlag.takeover.bit } } := by
  rw [enterService, startTimer_eq]
  rfl

theorem forcedTake_of_hushing (h : t.sect.state = .hushing) :
    forcedTake t = { t with sect :=
      { t.sect with
        hushTarget := .service, silenceTimer := some (t.sect.silenceTimer.getD (t.now + 2000000))
        takeover := if t.sect.takeover = .none then .claiming else t.sect.takeover } } := by
  unfold forcedTake
  dsimp only
  rw [if_pos h, startTimer_eq]

theorem forcedTake_begins (h : t.sect.state ≠ .hushing) :
    HushBegins .service false { t with sect := { t.sect with takeover := .claiming } } (forcedTake t) := by
  unfold forcedTake
  dsimp only
  rw [if_neg h]
  exact beginHush_begins .service false _

theorem take_answers (h : Offered 0x73 f s t) (hlink : f.link = .servicePort) (hf : f.fields = [forced])
    (ha : takeAct forced t = (u, ⟨code, data⟩)) : Answers 0x73 (.take f) f s code data u :=
  answers_addressed (decode := takeBody) h rfl (beq_iff_eq.mpr hlink) (by rw [hf]; rfl) ha

theorem takeAct_range (h : 1 < forced.toNat) : takeAct forced t = (t, ⟨.range, []⟩) := by
  rw [takeAct, yesNo_none h]
  rfl

/-- From QUIET and HALTED the pendant enters SERVICE, forced or not. -/
theorem takeAct_enters (h : t.sect.state = .quiet ∨ t.sect.state = .halted) :
    takeAct (boolByte b) t = (enterService t, ⟨.done, [4]⟩) := by
  rw [takeAct, yesNo_boolByte]
  rcases h with h | h <;> rw [h] <;> rfl

theorem takeAct_inService (h : t.sect.state = .service) : takeAct (boolByte b) t = (t, ⟨.done, [4]⟩) := by
  rw [takeAct, yesNo_boolByte, h]
  rfl

theorem takeAct_refuses (h : t.sect.state = .playing ∨ t.sect.state = .paused ∨ t.sect.state = .hushing) :
    takeAct (boolByte false) t = (t, ⟨.state, []⟩) := by
  rw [takeAct, yesNo_boolByte]
  rcases h with h | h | h <;> rw [h] <;> rfl

theorem takeAct_forces (h : t.sect.state = .playing ∨ t.sect.state = .paused ∨ t.sect.state = .hushing) :
    takeAct (boolByte true) t = (forcedTake t, ⟨.done, [3]⟩) := by
  rw [takeAct, yesNo_boolByte]
  rcases h with h | h | h <;> rw [h] <;> rfl

end

/-- Settles O48: the forced flag in range, and then the section's state. -/
theorem take : Obligations.Take := by
  unfold Obligations.Take
  intro f s t forced ho hlink hf a timer
  have answers : ∀ {u : State} {code : ReplyCode} {data : List Byte},
      takeAct forced t = (u, ⟨code, data⟩) → a code data u := take_answers ho hlink hf
  refine ⟨fun hr => answers (takeAct_range hr), fun hr hs => ?_, fun hr hs => ?_, ?_, ?_, ?_⟩
  · obtain ⟨b, rfl⟩ := exists_boolByte hr
    rw [← enterService_eq]
    exact answers (takeAct_enters hs)
  · obtain ⟨b, rfl⟩ := exists_boolByte hr
    exact answers (takeAct_inService hs)
  · rintro rfl hs
    exact answers (takeAct_refuses hs)
  · rintro rfl hs
    exact ⟨_, forcedTake_begins (by rcases hs with hs | hs <;> rw [hs] <;> exact nofun),
      answers (takeAct_forces (or_assoc.mp (.inl hs)))⟩
  · rintro rfl hs
    rw [← forcedTake_of_hushing hs]
    exact answers (takeAct_forces (.inr (.inr hs)))

end Sys2Proof.Machine

namespace Sys2Proof.Machine

open Safety

/-! ### O50: PENDANT_SILENCE_EXPIRY (07 R140) -/

/-- The takeover record is given up, with TAKEOVER if it was HELD, and the timer stops (07 R140 steps 3 and 4). -/
def givenUp (u : State) : State := { u with
  sect := { u.sect with takeover := .none, silenceTimer := none }
  fault := if u.sect.takeover = .held then
    { u.fault with flags := u.fault.flags ||| AttentionFlag.takeover.bit } else u.fault }

section

variable {s : State}

theorem silenceHush_of_hushing (h : s.sect.state = .hushing) :
    silenceHush s = { s with sect := { s.sect with hushTarget := .quiet } } := if_pos h

theorem silenceHush_begins (h : s.sect.state ≠ .hushing) : HushBegins .quiet false s (silenceHush s) := by
  rw [silenceHush, if_neg h]
  exact beginHush_begins .quiet false s

theorem loseTakeover_stopped (u : State) :
    { loseTakeover u with sect := { (loseTakeover u).sect with silenceTimer := none } } = givenUp u := by
  unfold loseTakeover givenUp
  split <;> rfl

/-- The expiry is PENDANT_LOST, then its hush, and then the takeover given up (07 R140). -/
theorem pendantLost_raised (s : State) :
    ∃ m, Raised { kind := .pendantLost, origin := .link .servicePort, detail := .nothing } s m ∧
      pendantLost s = givenUp (silenceHush { s with fault := m }) := by
  obtain ⟨m, hm, hraised⟩ :=
    raise_raised { kind := .pendantLost, origin := .link .servicePort, detail := .nothing } s
  refine ⟨m, hraised, ?_⟩
  rw [pendantLost, hm]
  exact loseTakeover_stopped _

theorem execPendantSilenceExpiry_of_due {e : Time} (ht : s.sect.silenceTimer = some e) (he : e ≤ (s.partTime : Int)) :
    Completes .pendantSilenceExpiry s (pendantLost s) := by
  have hdue : timerDue s.now s.sect.silenceTimer = some e := by
    rw [ht]
    exact if_pos he
  change execPendantSilenceExpiry s = _
  rw [execPendantSilenceExpiry, hdue]
  rfl

theorem execPendantSilenceExpiry_of_notDue (h : ∀ e, s.sect.silenceTimer = some e → (s.partTime : Int) < e) :
    exec .pendantSilenceExpiry s = .next s := by
  have hdue : timerDue s.now s.sect.silenceTimer = none := by
    rw [← Option.not_isSome_iff_eq_none, timerDue_isSome]
    rintro ⟨e, ht, he⟩
    exact Int.not_le.mpr (h e ht) he
  change execPendantSilenceExpiry s = _
  rw [execPendantSilenceExpiry, hdue]

end

/-- Settles O50: the expiry's own steps in order, with the hush begun or turned by the section's state. -/
theorem pendantSilenceExpiry : Obligations.PendantSilenceExpiry := by
  unfold Obligations.PendantSilenceExpiry
  intro s _
  refine ⟨fun e ht he => ?_, execPendantSilenceExpiry_of_notDue⟩
  obtain ⟨m, hraised, hlost⟩ := pendantLost_raised s
  have hdone := execPendantSilenceExpiry_of_due ht he
  rw [hlost] at hdone
  refine ⟨m, hraised, fun hs => ?_, fun hs => ⟨_, silenceHush_begins hs, hdone⟩⟩
  rw [silenceHush_of_hushing (s := { s with fault := m }) hs] at hdone
  exact hdone

end Sys2Proof.Machine

namespace Sys2Proof.Machine

open Safety

/-! ### O10: framing errors, breaks and the line's edges (09 R168, R171, R172, 07 R136) -/

section

variable {l : Link} {s : State} {t : Time}

theorem deaf_iff {x : LinkUnit} : x.deaf = true ↔ x.breakFlag = true ∧ x.spaceStart ≠ none := by
  rw [LinkUnit.deaf, Bool.and_eq_true, Option.isSome_iff_ne_none]

/-! #### FRAMING_ERROR (09 R171) -/

theorem execFramingError_of_deaf (h : (s.unit l).deaf = true) : exec (.framingError l) s = .next s := if_pos h

theorem execFramingError_of_hunt (h : (s.unit l).receiver = .hunt) : exec (.framingError l) s = .next s := by
  change execFramingError l s = _
  rw [execFramingError, h]
  exact ite_self _

/-- A receiver that hears leaves SKIP for HUNT. -/
theorem framingError_skip (hd : ¬ (s.unit l).deaf = true) (h : (s.unit l).receiver = .skip) :
    Completes (.framingError l) s (updUnit l (fun x => { x with receiver := .hunt }) s) := by
  change execFramingError l s = _
  rw [execFramingError, if_neg hd, h]
  rfl

/-- A receiver that hears discards its frame with LINK_FRAMING. -/
theorem framingError_collect {a : Assembly} (hd : ¬ (s.unit l).deaf = true) (h : (s.unit l).receiver = .collect a) :
    CompletesRaising (.framingError l) s (updUnit l (fun x => { x with receiver := .hunt }) s)
      { kind := .linkFraming, origin := .link l, detail := .link (some a.address) a.length (a.body.take 6) } := by
  refine completesRaising_of ?_
  change execFramingError l s = _
  rw [execFramingError, if_neg hd, h]
  rfl

/-! #### BREAK (09 R171) -/

theorem breakCondition_of_due (h : breakDue s l = true) :
    Completes (.breakCondition l) s (updUnit l (fun x => { x with breakFlag := true, receiver := .hunt }) s) :=
  if_pos h

theorem execBreakCondition_of_notDue (h : ¬ breakDue s l = true) : exec (.breakCondition l) s = .next s := if_neg h

/-- No space start, a break recognised already, or less than two character times at space. -/
theorem not_breakDue (h : (s.unit l).spaceStart = none ∨ (s.unit l).breakFlag = true ∨
      ∃ t, (s.unit l).spaceStart = some t ∧ (s.now - t) * lineRate s l < 22000000) : ¬ breakDue s l = true := by
  rw [breakDue_iff]
  rintro ⟨t, hstart, hflag, hlong⟩
  rcases h with h | h | ⟨t', h, hshort⟩
  · rw [hstart] at h
    cases h
  · rw [hflag] at h
    cases h
  · rw [hstart] at h
    cases h
    exact Int.not_le.mpr hshort hlong

/-! #### The edges (09 R168) -/

theorem lineReturnToMark_completes (l : Link) (s : State) :
    Completes (.lineReturnToMark l) s
      (updUnit l (fun x => { x with spaceStart := none, causeLatch := false }) s) := rfl

/-- The time of an earlier edge to space stays. -/
theorem toSpace_eq (now : Time) :
    LinkUnit.toSpace now = fun x => { x with spaceStart := some (x.spaceStart.getD now) } := by
  funext x
  obtain ⟨receiver, flag, start, latch, buffers, presented, slot, shifter⟩ := x
  cases start <;> rfl

theorem markToSpace_completes (l : Link) (s : State) :
    Completes (.markToSpace l) s
      (updUnit l (fun x => { x with spaceStart := some (x.spaceStart.getD s.now) }) s) := by
  rw [← toSpace_eq]
  rfl

/-! #### LONG_BREAK (09 R172, 07 R136) -/

theorem longBreak_of_due (h : longBreakDue s = true) :
    Completes .longBreak s (breakCause { s with showUnit := { s.showUnit with causeLatch := true } }) := if_pos h

theorem execLongBreak_of_notDue (h : ¬ longBreakDue s = true) : exec .longBreak s = .next s := if_neg h

/-- Less than 2,000 µs at space, or the cause of this break delivered already. -/
theorem not_longBreakDue (ht : s.showUnit.spaceStart = some t)
    (h : s.now < t + 2000 ∨ s.showUnit.causeLatch = true) : ¬ longBreakDue s = true := by
  rw [longBreakDue_iff]
  rintro ⟨t', hstart, hlatch, hlong⟩
  rw [ht] at hstart
  cases hstart
  rcases h with h | h
  · exact Int.not_le.mpr h hlong
  · rw [hlatch] at h
    cases h

theorem breakCause_begins (s : State) (hb : s.sect.breakHush = true) (hs : s.sect.state ≠ .hushing) :
    HushBegins (if s.sect.state = .service then .service else .quiet) false s (breakCause s) := by
  rw [breakCause, if_pos hb]
  exact causeHush_begins s hs

/-- With break hush disabled, and during HUSHING, the cause changes nothing. -/
theorem breakCause_idle (h : s.sect.breakHush = false ∨ s.sect.state = .hushing) : breakCause s = s := by
  rw [breakCause]
  split
  · next hb => exact causeHush_of_hushing (h.resolve_left (by rw [hb]; exact nofun))
  · rfl

end

/-- Settles O10: each event by its condition, and the cause of a long break by the section. -/
theorem lineEvents : Obligations.LineEvents := by
  unfold Obligations.LineEvents
  refine ⟨fun l s => ?_, fun s t ht => ?_⟩
  · intro deaf
    have hdeaf : (s.unit l).deaf = true ↔ deaf := deaf_iff
    exact ⟨fun h => execFramingError_of_deaf (hdeaf.mpr h),
      fun h a ha => framingError_collect (mt hdeaf.mp h) ha,
      fun h hr => framingError_skip (mt hdeaf.mp h) hr,
      fun _ hr => execFramingError_of_hunt hr,
      fun t hstart hflag hlong => breakCondition_of_due (breakDue_iff.mpr ⟨t, hstart, hflag, hlong⟩),
      fun h => execBreakCondition_of_notDue (not_breakDue h),
      lineReturnToMark_completes l s, markToSpace_completes l s⟩
  · intro latched
    have hdue : t + 2000 ≤ s.now → s.showUnit.causeLatch = false → Completes .longBreak s (breakCause latched) :=
      fun hlong hlatch => longBreak_of_due (longBreakDue_iff.mpr ⟨t, ht, hlatch, hlong⟩)
    refine ⟨fun hlong hlatch hb hs => ⟨_, breakCause_begins latched hb hs, hdue hlong hlatch⟩,
      fun hlong hlatch hidle => ?_, fun h => execLongBreak_of_notDue (not_longBreakDue ht h)⟩
    have h := hdue hlong hlatch
    rwa [breakCause_idle (s := latched) hidle] at h

end Sys2Proof.Machine

namespace Sys2Proof.Machine

open Safety

/-! ### O13: TAKEN on the show link in SERVICE (07 R142, Table 7.3.2)

A body whose length suits its kind is read as a rule behind the TAKEN check, so that the refusal comes ahead of the
rule's own checks. -/

/-- The body is read as a rule behind the TAKEN check of the link. -/
def Guarded (l : Link) (rule : Option Action) : Prop := ∃ act, rule = some (unlessTaken l act)

/-- A guarded request of the show link is refused TAKEN in SERVICE. -/
theorem answers_taken {kind : Byte} {c : Instr} {f : Frame} {s t : State} {p : Permission}
    {decode : List Byte → Option Action} (ho : Offered kind f s t) (hs : FromShowInService f t)
    (hc : exec c s = takeRequest kind p f decode s) (hp : p.allows f = true)
    (hg : Guarded f.link (decode f.fields)) : Answers kind c f s .taken [] t := by
  obtain ⟨act, hd⟩ := hg
  exact answers_addressed ho hc hp hd (unlessTaken_taken hs)

/-! #### Bodies of a fixed length

`lengthSuits` counts the kind byte and the tag too, so that a body of n bytes has n - 2 fields. -/

section

variable {l : Link} {fields : List Byte} {decode : List Byte → Option Action}

theorem guarded_zero (h : (fields.length + 2 == 2) = true) (hd : Guarded l (decode [])) :
    Guarded l (decode fields) := by
  have hlen : fields.length = 0 := Nat.add_right_cancel (beq_iff_eq.mp h)
  rwa [List.length_eq_zero_iff.mp hlen]

theorem guarded_one (h : (fields.length + 2 == 3) = true) (hd : ∀ a, Guarded l (decode [a])) :
    Guarded l (decode fields) := by
  have hlen : fields.length = 1 := Nat.add_right_cancel (beq_iff_eq.mp h)
  obtain ⟨a, rfl⟩ := List.length_eq_one_iff.mp hlen
  exact hd a

theorem guarded_two (h : (fields.length + 2 == 4) = true) (hd : ∀ a b, Guarded l (decode [a, b])) :
    Guarded l (decode fields) := by
  have hlen : fields.length = 2 := Nat.add_right_cancel (beq_iff_eq.mp h)
  match fields, hlen with
  | [a, b], _ => exact hd a b

theorem guarded_four (h : (fields.length + 2 == 6) = true) (hd : ∀ a b c d, Guarded l (decode [a, b, c, d])) :
    Guarded l (decode fields) := by
  have hlen : fields.length = 4 := Nat.add_right_cancel (beq_iff_eq.mp h)
  match fields, hlen with
  | [a, b, c, d], _ => exact hd a b c d

theorem guarded_five (h : (fields.length + 2 == 7) = true)
    (hd : ∀ a b c d e, Guarded l (decode [a, b, c, d, e])) : Guarded l (decode fields) := by
  have hlen : fields.length = 5 := Nat.add_right_cancel (beq_iff_eq.mp h)
  match fields, hlen with
  | [a, b, c, d, e], _ => exact hd a b c d e

theorem openCueBody_guarded (h : lengthSuits 0x10 fields = true) : Guarded l (openCueBody l fields) := by
  have hlen : fields.length = 10 := Nat.add_right_cancel (beq_iff_eq.mp h)
  match fields, hlen with
  | [_, _, _, _, _, _, _, _, _, _], _ => exact ⟨_, rfl⟩

theorem setCurveBody_guarded (h : lengthSuits 0x34 fields = true) : Guarded l (setCurveBody l fields) := by
  have hlen : fields.length = 21 := Nat.add_right_cancel (beq_iff_eq.mp h)
  match fields, hlen with
  | [_, _, _, _, _, _, _, _, _, _, _, _, _, _, _, _, _, _, _, _, _], _ => exact ⟨_, rfl⟩

/-- SET LANES with a map; without one it only reads (03 R61). -/
theorem setLanesBody_guarded (h : lengthSuits 0x36 fields = true) (hne : fields ≠ []) :
    Guarded l (setLanesBody l fields) := by
  have hlen : fields.length = 8 := by
    rcases (Bool.or_eq_true ..).mp h with h | h
    · exact absurd (List.length_eq_zero_iff.mp (Nat.add_right_cancel (beq_iff_eq.mp h))) hne
    · exact Nat.add_right_cancel (beq_iff_eq.mp h)
  match fields, hlen with
  | [_, _, _, _, _, _, _, _], _ => exact ⟨_, rfl⟩

/-! #### Bodies that carry a count -/

theorem eventsBody_guarded (h : lengthSuits 0x11 fields = true) : Guarded l (eventsBody l fields) := by
  obtain ⟨hmin, hcount⟩ := (Bool.and_eq_true ..).mp h
  match fields, of_decide_eq_true hmin with
  | _ :: count :: records, _ =>
    have hlen : records.length + 4 = 4 + 8 * count.toNat := beq_iff_eq.mp hcount
    exact ⟨_, if_pos (by omega)⟩

theorem setGroupBody_guarded (h : lengthSuits 0x32 fields = true) : Guarded l (setGroupBody l fields) := by
  obtain ⟨hmin, hcount⟩ := (Bool.and_eq_true ..).mp h
  match fields, of_decide_eq_true hmin with
  | _ :: _ :: _ :: _ :: count :: channels, _ =>
    have hlen : channels.length + 7 = 7 + count.toNat := beq_iff_eq.mp hcount
    exact ⟨_, if_pos (by omega)⟩

theorem loadPhasesBody_guarded (h : lengthSuits 0x50 fields = true) : Guarded l (loadPhasesBody l fields) := by
  obtain ⟨hmin, hcount⟩ := (Bool.and_eq_true ..).mp h
  match fields, of_decide_eq_true hmin with
  | _ :: count :: entries, _ =>
    have hlen : entries.length + 4 = 4 + count.toNat := beq_iff_eq.mp hcount
    exact ⟨_, if_pos (by omega)⟩

end

/-! #### Every request of the table (07 Table 7.3.2) -/

/-- The kinds that configure the part or change cues or section, SET LANES among them. -/
def guardedKinds : List Byte := 0x36 :: takenKinds

/-- The command is a request of such a kind. -/
def isGuarded (c : Instr) : Bool := (c.request?.map Prod.fst).any guardedKinds.contains

/-- An addressed request that the TAKEN check guards, whatever link and state it meets. -/
def TakenFirst (c : Instr) : Prop :=
  ∀ (kind : Byte) (f : Frame) (s t : State), c.request? = some (kind, f) → Offered kind f s t → FromShowInService f t →
    lengthSuits kind f.fields = true → (kind = 0x36 → f.fields ≠ []) → Answers kind c f s .taken [] t

/-- A command that hands its frame to a guarded body. -/
theorem takenFirst_of {c : Instr} {kind : Byte} {f : Frame} {p : Permission} {decode : List Byte → Option Action}
    (hr : c.request? = some (kind, f)) (hc : ∀ s, exec c s = takeRequest kind p f decode s)
    (hp : Permission.addressed.allows f = true → p.allows f = true)
    (hg : lengthSuits kind f.fields = true → (kind = 0x36 → f.fields ≠ []) → Guarded f.link (decode f.fields)) :
    TakenFirst c := by
  intro k g s t hreq ho hs hl hne
  rw [hr] at hreq
  cases hreq
  exact answers_taken ho hs (hc s) (hp (addressed_allows ho)) (hg hl hne)

theorem takenFirst_of_guarded {c : Instr} (h : isGuarded c = true)
    (hunknown : ∀ kind f, c = .unknownRequest kind f → kind ∉ requestKinds) : TakenFirst c := by
  cases c with
  | unknownRequest kind f =>
    have hsub : guardedKinds ⊆ requestKinds := by decide
    exact absurd (hsub (List.contains_iff_mem.mp h)) (hunknown kind f rfl)
  | pause | continueCue | commitPhases | sectionReset =>
    exact takenFirst_of rfl (fun _ => rfl) id fun h _ => guarded_zero h ⟨_, rfl⟩
  | setHorizon | start | dropCue | setMask | clearRailLatch | unfence | setBreakHush =>
    exact takenFirst_of rfl (fun _ => rfl) id fun h _ => guarded_one h fun _ => ⟨_, rfl⟩
  | nudge => exact takenFirst_of rfl (fun _ => rfl) (fun _ => rfl) fun h _ => guarded_one h fun _ => ⟨_, rfl⟩
  | setTranspose | setDynamics | setLateLimits =>
    exact takenFirst_of rfl (fun _ => rfl) id fun h _ => guarded_two h fun _ _ => ⟨_, rfl⟩
  | setChannel | setHoldChannel =>
    exact takenFirst_of rfl (fun _ => rfl) id fun h _ => guarded_four h fun _ _ _ _ => ⟨_, rfl⟩
  | setWindow | setRail | setRotorChannel =>
    exact takenFirst_of rfl (fun _ => rfl) id fun h _ => guarded_five h fun _ _ _ _ _ => ⟨_, rfl⟩
  | openCue => exact takenFirst_of rfl (fun _ => rfl) id fun h _ => openCueBody_guarded h
  | setCurve => exact takenFirst_of rfl (fun _ => rfl) id fun h _ => setCurveBody_guarded h
  | events => exact takenFirst_of rfl (fun _ => rfl) id fun h _ => eventsBody_guarded h
  | setGroup => exact takenFirst_of rfl (fun _ => rfl) id fun h _ => setGroupBody_guarded h
  | loadPhases => exact takenFirst_of rfl (fun _ => rfl) id fun h _ => loadPhasesBody_guarded h
  | setLanes => exact takenFirst_of rfl (fun _ => rfl) id fun h hne => setLanesBody_guarded h (hne rfl)
  | _ => exact absurd h Bool.false_ne_true

/-- Settles O13: the kind is one of the guarded ones, and the body's length suits it. -/
theorem takenInService : Obligations.TakenInService := by
  unfold Obligations.TakenInService
  intro c kind f s t hr hw ho hs hl hk
  have hne : kind = 0x36 → f.fields ≠ [] := by
    rintro rfl
    exact (hk.resolve_left (by decide)).2
  have hguarded : isGuarded c = true := by
    rw [isGuarded, hr]
    exact List.contains_iff_mem.mpr (List.mem_cons.mpr (hk.symm.imp_left And.left))
  have hunknown : ∀ k g, c = .unknownRequest k g → k ∉ requestKinds := by
    rintro k g rfl hmem
    rw [Instr.wellFormed, List.contains_iff_mem.mpr hmem, Bool.not_true, Bool.and_false] at hw
    cases hw
  exact takenFirst_of_guarded hguarded hunknown kind f s t hr ho hs hl hne

end Sys2Proof.Machine

namespace Sys2Proof.Machine

open Safety

/-! ### O51: CLEAR FAULTS, SET FAULT MASK, SET SEVERITY and CLEAR CAPTURE (08 R155 to R158) -/

/-! #### The kind records of a set -/

theorem getLsbD_ofNat_kind (n : Nat) (k : Fin 13) : (BitVec.ofNat 13 n).getLsbD k.val = n.testBit k.val := by
  rw [BitVec.getLsbD_ofNat, decide_eq_true k.isLt, Bool.true_and]

/-- Each kind of the set is changed, and no other. -/
theorem changeKinds_get (set : BitVec 13) (g : KindRecord → KindRecord) (s : State) (k : Fin 13) :
    (changeKinds set g s).fault.kinds[k] =
      if set.getLsbD k.val then g s.fault.kinds[k] else s.fault.kinds[k] := by
  have hfold : (fun (v : Vector KindRecord 13) (i : Fin 13) => if set.getLsbD i.val then upd v i g else v) =
      fun v i => upd v i (if set.getLsbD i.val then g else id) := by
    funext v i
    split
    · rfl
    · exact (Vector.set_getElem_self i.isLt).symm
  rw [changeKinds]
  dsimp only
  rw [hfold, allFin, foldl_upd_get _ _ (List.nodup_finRange 13), if_pos (List.mem_finRange k)]
  split <;> rfl

section

variable {g : KindRecord → KindRecord} {s : State} {n : Nat} {k : Fin 13}

theorem changeKinds_named (h : n.testBit k.val = true) :
    (changeKinds (BitVec.ofNat 13 n) g s).fault.kinds[k] = g s.fault.kinds[k] :=
  (changeKinds_get _ g s k).trans (if_pos ((getLsbD_ofNat_kind n k).trans h))

theorem changeKinds_unnamed (h : ¬ n.testBit k.val = true) :
    (changeKinds (BitVec.ofNat 13 n) g s).fault.kinds[k] = s.fault.kinds[k] := by
  rw [changeKinds_get, getLsbD_ofNat_kind, if_neg h]

end

section

variable {f : Frame} {s t u : State} {code : ReplyCode} {data : List Byte}

/-! #### CLEAR FAULTS and SET FAULT MASK (08 R155, R156) -/

section

variable {high low value : Byte}

theorem clearFaults_answers (h : Offered 0x81 f s t) (hf : f.fields = [high, low])
    (ha : clearFaultsAct high low t = (u, ⟨code, data⟩)) : Answers 0x81 (.clearFaults f) f s code data u :=
  answers_addressed (decode := clearFaultsBody) h rfl (addressed_allows h) (by rw [hf]; rfl) ha

theorem clearFaultsAct_range (hr : 8192 ≤ u16 high low) : clearFaultsAct high low t = (t, ⟨.range, []⟩) := by
  rw [clearFaultsAct, kindSet_none hr]
  rfl

theorem clearFaultsAct_eq (hr : u16 high low < 8192) :
    clearFaultsAct high low t =
      let u := changeKinds (BitVec.ofNat 13 (u16 high low)) (fun k => { k with status := false }) t
      (u, ⟨.done, statusData u.fault⟩) := by
  rw [clearFaultsAct, kindSet_some hr]
  rfl

theorem setFaultMask_answers (h : Offered 0x82 f s t) (hf : f.fields = [high, low, value])
    (ha : setFaultMaskAct high low value t = (u, ⟨code, data⟩)) :
    Answers 0x82 (.setFaultMask f) f s code data u :=
  answers_addressed (decode := setFaultMaskBody) h rfl (addressed_allows h) (by rw [hf]; rfl) ha

theorem setFaultMaskAct_range (hr : 8192 ≤ u16 high low ∨ 1 < value.toNat) :
    setFaultMaskAct high low value t = (t, ⟨.range, []⟩) := by
  rcases hr with hset | hvalue
  · rw [setFaultMaskAct, kindSet_none hset]
    rfl
  · rw [setFaultMaskAct, yesNo_none hvalue]
    cases kindSet high low <;> rfl

theorem setFaultMaskAct_eq {masked : Bool} (hr : u16 high low < 8192) :
    setFaultMaskAct high low (boolByte masked) t =
      let u := changeKinds (BitVec.ofNat 13 (u16 high low)) (fun k => { k with masked := masked }) t
      (u, ⟨.done, maskData u.fault⟩) := by
  rw [setFaultMaskAct, kindSet_some hr, yesNo_boolByte]
  rfl

end

/-! #### SET SEVERITY (08 R157) -/

section

variable {kind severity : Byte}

theorem setSeverity_answers (h : Offered 0x83 f s t) (hf : f.fields = [kind, severity])
    (ha : setSeverityAct kind severity t = (u, ⟨code, data⟩)) : Answers 0x83 (.setSeverity f) f s code data u :=
  answers_addressed (decode := setSeverityBody) h rfl (addressed_allows h) (by rw [hf]; rfl) ha

theorem severity_ofCode_none (h : 2 < severity.toNat) : Severity.ofCode severity = none := by
  have hne : ∀ b : Byte, b.toNat ≤ 2 → severity ≠ b := fun b hb he =>
    absurd (he ▸ h) (Nat.not_lt.mpr hb)
  rw [Severity.ofCode, if_neg (hne 0 (by decide)), if_neg (hne 1 (by decide)), if_neg (hne 2 (by decide))]

theorem setSeverityAct_range (hr : 12 < kind.toNat ∨ 2 < severity.toNat ∨ kind.toNat = 10) :
    setSeverityAct kind severity t = (t, ⟨.range, []⟩) := by
  rcases hr with hkind | hseverity | hshort
  · rw [setSeverityAct, toFin_none hkind]
    rfl
  · rw [setSeverityAct, severity_ofCode_none hseverity]
    cases toFin 13 kind <;> rfl
  · rw [setSeverityAct, toFin_eq (i := ErrorKind.driveShort.number) hshort]
    cases Severity.ofCode severity with
    | none => rfl
    | some v => exact if_pos rfl

theorem setSeverityAct_eq {k : Fin 13} {v : Severity} (hk : kind.toNat = k.val) (hne : kind.toNat ≠ 10) :
    setSeverityAct kind v.code t =
      ({ t with fault := { t.fault with kinds := upd t.fault.kinds k fun x => { x with severity := v } } },
        ⟨.done, [kind, v.code]⟩) := by
  have hshort : k ≠ ErrorKind.driveShort.number := fun he => hne (hk.trans (congrArg Fin.val he))
  have hbyte : finByte k = kind := by rw [finByte, ← hk, byteOf_toNat]
  rw [setSeverityAct, toFin_eq hk, severity_code, ← hbyte]
  exact if_neg hshort

end

/-! #### CLEAR CAPTURE (08 R158) -/

theorem clearCapture_answers (h : Offered 0x85 f s t) (hf : f.fields = []) :
    Answers 0x85 (.clearCapture f) f s .done [] { t with fault := { t.fault with capture := none } } :=
  answers_addressed (decode := clearCaptureBody)
    (act := fun s => ({ s with fault := { s.fault with capture := none } }, .done [])) h rfl (addressed_allows h)
    (by rw [hf]; rfl) rfl

end

/-- Settles O51: the ranges, and then the field of each kind that the request names. -/
theorem faultKinds : Obligations.FaultKinds := by
  unfold Obligations.FaultKinds
  intro f s t named setOf kindsOnly
  refine ⟨fun high low h hf => ⟨fun hr => clearFaults_answers h hf (clearFaultsAct_range hr), fun hr => ?status⟩,
    fun high low value h hf => ⟨fun hr => setFaultMask_answers h hf (setFaultMaskAct_range hr),
      fun masked hr hv => ?mask⟩,
    fun kind severity h hf => ⟨fun hr => setSeverity_answers h hf (setSeverityAct_range hr),
      fun k v hk hne hv => ?severity⟩,
    fun h hf => clearCapture_answers h hf⟩
  case status =>
    exact ⟨_, rfl, fun k => changeKinds_named, fun k => changeKinds_unnamed,
      clearFaults_answers h hf (clearFaultsAct_eq hr)⟩
  case mask =>
    subst hv
    exact ⟨_, rfl, fun k => changeKinds_named, fun k => changeKinds_unnamed,
      setFaultMask_answers h hf (setFaultMaskAct_eq hr)⟩
  case severity =>
    subst hv
    exact ⟨_, rfl, upd_get_self .., fun j hj => upd_get_ne _ _ _ _ hj.symm,
      setSeverity_answers h hf (setSeverityAct_eq hk hne)⟩

end Sys2Proof.Machine

namespace Sys2Proof.Machine

open Safety

/-! ### O52: CLEAR ATTENTION, MASK ATTENTION, UNMASK ATTENTION and CALL (08 R160, R162 to R164) -/

/-- A flag set is its two bytes, one behind the other (10 R180). -/
theorem flagSetOf_eq (high low : Byte) : flagSetOf high low = high ++ low := by
  apply BitVec.eq_of_toNat_eq
  have hhigh := high.isLt
  have hlow := low.isLt
  rw [flagSetOf, u16, BitVec.toNat_ofNat, BitVec.toNat_append, ← Nat.shiftLeft_add_eq_or_of_lt hlow,
    Nat.shiftLeft_eq]
  omega

/-- `BitVec.zero_iff_eq_false` for a word that is not zero, with the bit among the word's own. -/
theorem ne_zero_iff_getLsbD {w : Nat} (v : BitVec w) : v ≠ 0#w ↔ ∃ n : Fin w, v.getLsbD n.val = true := by
  rw [ne_eq, BitVec.zero_iff_eq_false, Classical.not_forall]
  simp only [Bool.not_eq_false]
  exact ⟨fun ⟨i, hi⟩ => ⟨⟨i, BitVec.lt_of_getLsbD hi⟩, hi⟩, fun ⟨n, hn⟩ => ⟨n.val, hn⟩⟩

/-- The line, in the words of the statements (08 R160). -/
theorem attentionLine_eq (m : FaultMonitor) :
    attentionLine m =
      decide (∃ n : Fin 16, m.flags.getLsbD n.val = true ∧ m.mask.getLsbD n.val = false) := by
  have hbit : ∀ n : Fin 16, (m.flags &&& ~~~m.mask).getLsbD n.val = true ↔
      m.flags.getLsbD n.val = true ∧ m.mask.getLsbD n.val = false := by
    intro n
    simp [n.isLt]
  rw [Bool.eq_iff_iff, decide_eq_true_iff]
  calc attentionLine m = true
    _ ↔ m.flags &&& ~~~m.mask ≠ 0#16 := bne_iff_ne
    _ ↔ ∃ n : Fin 16, (m.flags &&& ~~~m.mask).getLsbD n.val = true := ne_zero_iff_getLsbD _
    _ ↔ _ := exists_congr hbit

section

variable {f : Frame} {s t u : State} {code : ReplyCode} {data : List Byte}

section

variable {high low : Byte}

theorem clearAttention_answers (h : Offered 0x88 f s t) (hf : f.fields = [high, low])
    (ha : clearAttentionAct high low t = (u, ⟨code, data⟩)) : Answers 0x88 (.clearAttention f) f s code data u :=
  answers_addressed (decode := clearAttentionBody) h rfl (addressed_allows h) (by rw [hf]; rfl) ha

theorem maskAttention_answers (h : Offered 0x89 f s t) (hf : f.fields = [high, low])
    (ha : maskAttentionAct high low t = (u, ⟨code, data⟩)) : Answers 0x89 (.maskAttention f) f s code data u :=
  answers_addressed (decode := maskAttentionBody) h rfl (addressed_allows h) (by rw [hf]; rfl) ha

theorem unmaskAttention_answers (h : Offered 0x8A f s t) (hf : f.fields = [high, low])
    (ha : unmaskAttentionAct high low t = (u, ⟨code, data⟩)) :
    Answers 0x8A (.unmaskAttention f) f s code data u :=
  answers_addressed (decode := unmaskAttentionBody) h rfl (addressed_allows h) (by rw [hf]; rfl) ha

/-- The reply of either request: the mask and the line (08 R163). -/
theorem maskReply_eq (m : FaultMonitor) :
    maskReply m = ⟨.done, be16 m.mask.toNat ++
      [boolByte (decide (∃ n : Fin 16, m.flags.getLsbD n.val = true ∧ m.mask.getLsbD n.val = false))]⟩ := by
  rw [← attentionLine_eq]
  rfl

theorem clearAttentionAct_eq :
    clearAttentionAct high low t =
      let flags := t.fault.flags &&& ~~~(high ++ low)
      ({ t with fault := { t.fault with flags := flags } }, ⟨.done, be16 flags.toNat⟩) := by
  rw [clearAttentionAct, flagSetOf_eq]
  rfl

theorem maskAttentionAct_eq :
    maskAttentionAct high low t =
      let m := { t.fault with mask := t.fault.mask ||| (high ++ low) }
      ({ t with fault := m }, maskReply m) := by
  rw [maskAttentionAct, flagSetOf_eq]

theorem unmaskAttentionAct_eq :
    unmaskAttentionAct high low t =
      let m := { t.fault with mask := t.fault.mask &&& ~~~(high ++ low) }
      ({ t with fault := m }, maskReply m) := by
  rw [unmaskAttentionAct, flagSetOf_eq]

end

section

variable {number : Byte}

theorem call_answers (h : Offered 0x8B f s t) (hlink : f.link = .servicePort) (hf : f.fields = [number])
    (ha : callAct number t = (u, ⟨code, data⟩)) : Answers 0x8B (.call f) f s code data u :=
  answers_addressed (decode := callBody) h rfl (beq_iff_eq.mpr hlink) (by rw [hf]; rfl) ha

theorem callAct_range (hr : 3 < number.toNat) : callAct number t = (t, ⟨.range, []⟩) := by
  rw [callAct, toFin_none hr]
  rfl

theorem callAct_eq (hr : number.toNat ≤ 3) :
    callAct number t =
      ({ t with fault := { t.fault with flags := t.fault.flags ||| 1#16 <<< (12 + number.toNat) } },
        ⟨.done, []⟩) := by
  rw [callAct, toFin_eq (i := ⟨number.toNat, Nat.lt_succ_of_le hr⟩) rfl]
  rfl

end

end

/-- Settles O52: the flags or the mask that each request leaves, with the line that they give. -/
theorem attentionRequests : Obligations.AttentionRequests := by
  unfold Obligations.AttentionRequests
  intro f s t line
  constructor
  · intro high low hf named
    refine ⟨fun h => clearAttention_answers h hf clearAttentionAct_eq,
      fun h => maskAttention_answers h hf (maskAttentionAct_eq.trans ?_),
      fun h => unmaskAttention_answers h hf (unmaskAttentionAct_eq.trans ?_)⟩
    all_goals
      dsimp only
      rw [maskReply_eq]
  · intro number h hlink hf
    exact ⟨fun hr => call_answers h hlink hf (callAct_range hr),
      fun hr => call_answers h hlink hf (callAct_eq hr)⟩

end Sys2Proof.Machine

namespace Sys2Proof.Machine

open Safety

/-! ### O27: READ FAULTS, READ CAPTURE, READ COUNTS and READ ATTENTION (08 R154, R159, R162, 10 R184, R185) -/

/-! #### The records as the replies lay them out -/

/-- Some kind holds a halt, in the words of the statements (08 R147). -/
theorem haltingKind_isSome_eq (m : FaultMonitor) :
    (haltingKind m).isSome =
      decide (∃ k : Fin 13, m.kinds[k].masked = false ∧ m.kinds[k].severity = .fatal ∧
        m.kinds[k].status = true) := by
  rw [Bool.eq_iff_iff, decide_eq_true_iff]
  constructor
  · intro h
    obtain ⟨k, -, hk⟩ := List.find?_isSome.mp h
    exact ⟨k, holdsHalt_iff.mp hk⟩
  · rintro ⟨k, hk⟩
    exact haltingKind_isSome (holdsHalt_iff.mpr hk)

theorem faultsData_eq (m : FaultMonitor) :
    faultsData m =
      kindsWith m KindRecord.status ++ kindsWith m KindRecord.masked ++
        m.kinds.toList.map (fun k => k.severity.code) ++
        [boolByte m.capture.isSome,
          boolByte (decide (∃ k : Fin 13, m.kinds[k].masked = false ∧ m.kinds[k].severity = .fatal ∧
            m.kinds[k].status = true))] := by
  rw [faultsData, haltingKind_isSome_eq]
  rfl

theorem attentionData_eq (m : FaultMonitor) :
    attentionData m =
      be16 m.flags.toNat ++ be16 m.mask.toNat ++
        [boolByte (decide (∃ n : Fin 16, m.flags.getLsbD n.val = true ∧ m.mask.getLsbD n.val = false))] := by
  rw [attentionData, attentionLine_eq]
  rfl

section

variable {f : Frame} {s t u : State} {code : ReplyCode} {data : List Byte}

/-! #### The requests without fields -/

theorem readFaults_answers (h : Offered 0x80 f s t) (hf : f.fields = []) (hd : faultsData t.fault = data) :
    Answers 0x80 (.readFaults f) f s .done data t :=
  answers_addressed (decode := readFaultsBody) (act := fun s => (s, .done (faultsData s.fault))) h rfl
    (addressed_allows h) (by rw [hf]; rfl) (by rw [← hd]; rfl)

theorem readCapture_answers (h : Offered 0x84 f s t) (hf : f.fields = [])
    (hd : captureData t.fault.capture = data) : Answers 0x84 (.readCapture f) f s .done data t :=
  answers_addressed (decode := readCaptureBody) (act := fun s => (s, .done (captureData s.fault.capture))) h rfl
    (addressed_allows h) (by rw [hf]; rfl) (by rw [← hd]; rfl)

theorem readAttention_answers (h : Offered 0x87 f s t) (hf : f.fields = [])
    (hd : attentionData t.fault = data) : Answers 0x87 (.readAttention f) f s .done data t :=
  answers_addressed (decode := readAttentionBody) (act := fun s => (s, .done (attentionData s.fault))) h rfl
    (addressed_allows h) (by rw [hf]; rfl) (by rw [← hd]; rfl)

/-! #### READ COUNTS (08 R159) -/

section

variable {clear : Byte}

theorem readCounts_answers (h : Offered 0x86 f s t) (hf : f.fields = [clear])
    (ha : readCountsAct clear t = (u, ⟨code, data⟩)) : Answers 0x86 (.readCounts f) f s code data u :=
  answers_addressed (decode := readCountsBody) h rfl (addressed_allows h) (by rw [hf]; rfl) ha

theorem readCountsAct_range (hr : 1 < clear.toNat) : readCountsAct clear t = (t, ⟨.range, []⟩) := by
  rw [readCountsAct, yesNo_none hr]
  rfl

theorem readCountsAct_keeps : readCountsAct 0 t = (t, ⟨.done, countsData t.fault⟩) := rfl

/-- The counts are read as they were before they are zeroed. -/
theorem readCountsAct_clears :
    readCountsAct 1 t =
      ({ t with fault := { t.fault with kinds := mapAll (fun k => { k with count := 0 }) t.fault.kinds } },
        ⟨.done, countsData t.fault⟩) := rfl

end

end

/-- Settles O27: the numbers and codes, and then the data of each reply. -/
theorem readFaultMonitor : Obligations.ReadFaultMonitor := by
  unfold Obligations.ReadFaultMonitor
  refine ⟨encodesNumbers, rfl, rfl, fun _ => rfl, rfl, rfl, rfl, fun _ => ⟨rfl, rfl⟩, fun _ => ⟨rfl, rfl⟩,
    fun _ => ⟨rfl, rfl⟩, by decide, fun f s t => ?_⟩
  intro set
  refine ⟨fun h hf => readFaults_answers h hf (faultsData_eq t.fault), fun h hf => ⟨fun hnone => ?_, fun c hc => ?_⟩,
    fun clear h hf => ?_, fun h hf => readAttention_answers h hf (attentionData_eq t.fault)⟩
  · exact readCapture_answers h hf (by rw [hnone]; rfl)
  · intro detail
    have hdetail : c.detail.data = detail := by
      dsimp only [detail]
      cases c.detail with
      | link address length bytes => cases address <;> cases length <;> rfl
      | strike note group channel lateness => cases note <;> cases group <;> cases channel <;> rfl
      | drive | rail | clock | nothing => rfl
    refine readCapture_answers h hf ?_
    rw [hc, captureData, hdetail]
  · intro counts
    refine ⟨fun hr => readCounts_answers h hf (readCountsAct_range hr), ?_, ?_⟩
    · rintro rfl
      exact readCounts_answers h hf readCountsAct_keeps
    · rintro rfl
      exact ⟨_, readCounts_answers h hf readCountsAct_clears, fun k => mapAll_get _ _ k, rfl⟩

end Sys2Proof.Machine

namespace Sys2Proof.Machine

open Safety

/-! ### O7: address characters (09 R169, R171, R177) -/

/-- Two changes of one link's unit in turn. -/
theorem updUnit_updUnit (l : Link) (f g : LinkUnit → LinkUnit) (s : State) :
    updUnit l g (updUnit l f s) = updUnit l (fun x => g (f x)) s := by cases l <;> rfl

/-- A receiver that is not in COLLECT has no frame to discard. -/
theorem truncate_idle {l : Link} {s : State} (h : ∀ a, (s.unit l).receiver ≠ .collect a) : truncate l s = s := by
  unfold truncate
  split
  · next a ha => exact absurd ha (h a)
  · rfl
  · rfl

theorem truncate_collect {l : Link} {s : State} {a : Assembly} (h : (s.unit l).receiver = .collect a) :
    truncate l s = raise (linkError .linkTruncated l a.detail) s := by
  rw [truncate, h]

/-- The addresses that a link takes: its own and the broadcast on the show link, all on the service port. -/
theorem takesAddress_iff {g : ShowLinkSettings} {l : Link} {value : Byte} :
    takesAddress g l value = true ↔
      l = .servicePort ∨ value.toNat = 31 ∨ value.toNat = g.ownAddress.toNat := by
  cases l <;> simp [takesAddress]

/-- What a taken address character does to its link's unit (09 R169). -/
def LinkUnit.addressedBy (g : ShowLinkSettings) (l : Link) (value : Byte) (x : LinkUnit) : LinkUnit :=
  { x with
    breakFlag := false, receiver := if takesAddress g l value then .collect (openFrame value) else .skip }

theorem judgeAddress_clearBreak (l : Link) (value : Byte) (s : State) :
    judgeAddress l value (clearBreak l s) = updUnit l (.addressedBy s.settings l value) s := by
  rw [judgeAddress, clearBreak, setReceiver, updUnit_updUnit, updUnit_settings]
  rfl

section

variable {l : Link} {value : Byte} {s : State}

theorem execAddressCharacter_of_deaf (h : (s.unit l).deaf = true) :
    exec (.addressCharacter l value) s = .next s := if_pos h

theorem addressCharacter_fresh (hd : ¬ (s.unit l).deaf = true) (h : ∀ a, (s.unit l).receiver ≠ .collect a) :
    Completes (.addressCharacter l value) s (updUnit l (.addressedBy s.settings l value) s) := by
  change execAddressCharacter l value s = _
  rw [execAddressCharacter, if_neg hd, event, truncate_idle h, judgeAddress_clearBreak]

theorem addressCharacter_truncates {a : Assembly} (hd : ¬ (s.unit l).deaf = true)
    (h : (s.unit l).receiver = .collect a) :
    CompletesRaising (.addressCharacter l value) s (updUnit l (.addressedBy s.settings l value) s)
      (linkError .linkTruncated l a.detail) := by
  refine completesRaising_of ?_
  change execAddressCharacter l value s = _
  rw [execAddressCharacter, if_neg hd, event, truncate_collect h, judgeAddress_clearBreak, updUnit_raise]
  have hset : ∀ o, (raise o s).settings = s.settings := fun o => by simp
  rw [hset]

end

/-- Settles O7: the receiver hears nothing, has no frame in assembly, or discards the one it has. -/
theorem addressCharacter : Obligations.AddressCharacter := by
  unfold Obligations.AddressCharacter
  intro l value s deaf mine opened u
  have hdeaf : (s.unit l).deaf = true ↔ deaf := deaf_iff
  have hu : u = updUnit l (.addressedBy s.settings l value) s := by
    refine updUnit_congr ?_
    dsimp only [LinkUnit.addressedBy]
    congr 1
    exact ite_congr (propext takesAddress_iff.symm) (fun _ => rfl) fun _ => rfl
  rw [hu]
  exact ⟨fun h => execAddressCharacter_of_deaf (hdeaf.mpr h),
    fun h ha => addressCharacter_fresh (mt hdeaf.mp h) ha,
    fun h a ha => addressCharacter_truncates (mt hdeaf.mp h) ha⟩

end Sys2Proof.Machine

namespace Sys2Proof.Machine

open Safety

/-! ### O8: data characters (09 R170, 07 R140) -/

section

variable {l : Link} {value : Byte} {s : State} {a : Assembly}

/-- What a taken data character does to its link's unit, but for the buffers (09 R170). -/
def LinkUnit.heard (r : ReceiverState) (x : LinkUnit) : LinkUnit := { x with breakFlag := false, receiver := r }

theorem setReceiver_clearBreak (r : ReceiverState) (l : Link) (s : State) :
    setReceiver l r (clearBreak l s) = updUnit l (.heard r) s := updUnit_updUnit l _ _ s

theorem execDataCharacter_of_deaf (h : (s.unit l).deaf = true) :
    exec (.dataCharacter l value) s = .next s := if_pos h

/-- In HUNT and SKIP the character is discarded. -/
theorem dataCharacter_discarded (hd : ¬ (s.unit l).deaf = true) (h : ∀ a, (s.unit l).receiver ≠ .collect a) :
    Completes (.dataCharacter l value) s (updUnit l (.heard (s.unit l).receiver) s) := by
  have hclear : clearBreak l s = updUnit l (.heard (s.unit l).receiver) s := updUnit_congr rfl
  change execDataCharacter l value s = _
  rw [execDataCharacter, if_neg hd, ← hclear]
  split
  · next a ha => exact absurd ha (h a)
  · rfl
  · rfl

/-- In COLLECT the character is taken with the frame in assembly. -/
theorem execDataCharacter_collect (hd : ¬ (s.unit l).deaf = true) (h : (s.unit l).receiver = .collect a) :
    exec (.dataCharacter l value) s = .next (settle s (takeData l a value (clearBreak l s))) := by
  change execDataCharacter l value s = _
  rw [execDataCharacter, if_neg hd, h]
  rfl

theorem dataCharacter_completes {u : State} (hd : ¬ (s.unit l).deaf = true) (h : (s.unit l).receiver = .collect a)
    (hu : takeData l a value (clearBreak l s) = u) : Completes (.dataCharacter l value) s u := by
  rw [Completes, execDataCharacter_collect hd h, hu]

theorem dataCharacter_raises {u : State} {o : Occurrence} (hd : ¬ (s.unit l).deaf = true)
    (h : (s.unit l).receiver = .collect a) (hu : takeData l a value (clearBreak l s) = raise o u) :
    CompletesRaising (.dataCharacter l value) s u o :=
  completesRaising_of (by rw [execDataCharacter_collect hd h, hu])

/-! #### The length and the body (09 R170 steps 1 and 2) -/

theorem takeData_length (hlen : a.length = none) (h : 2 ≤ value.toNat ∧ value.toNat ≤ 60) :
    takeData l a value (clearBreak l s) =
      updUnit l (.heard (.collect { a with length := some value, check := checkByte a.check value })) s := by
  rw [takeData, hlen]
  exact (if_pos h).trans (setReceiver_clearBreak _ l s)

theorem takeData_badLength (hlen : a.length = none) (h : ¬ (2 ≤ value.toNat ∧ value.toNat ≤ 60)) :
    takeData l a value (clearBreak l s) =
      raise (linkError .linkFraming l (.link (some a.address) (some value) [])) (updUnit l (.heard .skip) s) := by
  rw [takeData, hlen, ← setReceiver_clearBreak]
  exact if_neg h

theorem takeData_body {n : Byte} (hlen : a.length = some n) (h : a.body.length < n.toNat) :
    takeData l a value (clearBreak l s) =
      updUnit l (.heard (.collect { a with body := a.body ++ [value], check := checkByte a.check value })) s := by
  rw [takeData, hlen]
  exact (if_pos h).trans (setReceiver_clearBreak _ l s)

/-! #### The check (09 R170 step 3) -/

theorem takeData_check {n : Byte} (hlen : a.length = some n) (h : n.toNat ≤ a.body.length) :
    takeData l a value (clearBreak l s) =
      if a.check = value then completeFrame l a (updUnit l (.heard .hunt) s)
      else raise (linkError .linkCheck l a.detail) (updUnit l (.heard .hunt) s) := by
  rw [takeData, hlen, ← setReceiver_clearBreak]
  exact if_neg (Nat.not_lt.mpr h)

theorem completeFrame_lost (h : 2 ≤ (s.unit l).buffers.length) :
    completeFrame l a s = raise (linkError .linkOverrun l a.detail) s := by
  rw [completeFrame, if_neg]
  rw [LinkUnit.bufferFree, decide_eq_true_iff]
  exact Nat.not_lt.mpr h

theorem completeFrame_accepted (h : (s.unit l).buffers.length < 2) :
    completeFrame l a s = acceptFrame l { address := a.address, body := a.body, completed := s.now } s :=
  if_pos (decide_eq_true h)

/-- What a frame with a good check does to its link's unit (09 R170 step 3, R173). -/
def LinkUnit.completed (now : Time) (a : Assembly) (x : LinkUnit) : LinkUnit :=
  { x with
    breakFlag := false, receiver := .hunt,
    buffers := x.buffers ++ [{ address := a.address, body := a.body, completed := now }],
    presentedAt := if x.buffers = [] then some now else x.presentedAt }

theorem store_heard (now : Time) (a : Assembly) (x : LinkUnit) :
    (x.heard .hunt).store now { address := a.address, body := a.body, completed := now } = x.completed now a := by
  unfold LinkUnit.store LinkUnit.completed LinkUnit.heard
  congr 1
  exact ite_congr (propext List.isEmpty_iff) (fun _ => rfl) fun _ => rfl

/-- The timer runs again from now if it runs at all (07 R140). -/
theorem restartTimer_eq (now : Time) (r : SectionRecord) :
    r.restartTimer now = { r with silenceTimer := r.silenceTimer.map fun _ => now + 2000000 } := by
  obtain ⟨state, target, halt, takeover, breakHush, timer⟩ := r
  cases timer <;> rfl

theorem notePendantFrame_service (s : State) :
    notePendantFrame .servicePort s =
      { s with sect := { s.sect with silenceTimer := s.sect.silenceTimer.map fun _ => s.now + 2000000 } } := by
  rw [notePendantFrame, restartTimer_eq]

theorem takeData_accepts {n : Byte} (hlen : a.length = some n) (h : n.toNat ≤ a.body.length) (hc : value = a.check)
    (hfree : (s.unit l).buffers.length < 2) :
    takeData l a value (clearBreak l s) = notePendantFrame l (updUnit l (.completed s.now a) s) := by
  have hroom : ((updUnit l (.heard .hunt) s).unit l).buffers.length < 2 := by
    rw [updUnit_unit_self]
    exact hfree
  rw [takeData_check hlen h, if_pos hc.symm, completeFrame_accepted hroom, acceptFrame, updUnit_updUnit]
  have hnow : (updUnit l (.heard .hunt) s).now = s.now := by simp
  rw [hnow]
  exact congrArg (notePendantFrame l) (updUnit_congr (store_heard s.now a (s.unit l)))

end

/-- Settles O8: the receiver hears nothing, assembles no frame, or takes the character by the place it is at. -/
theorem dataCharacter : Obligations.DataCharacter := by
  unfold Obligations.DataCharacter
  intro l value s c now u deaf
  have hdeaf : (s.unit l).deaf = true ↔ deaf := deaf_iff
  refine ⟨fun h => execDataCharacter_of_deaf (hdeaf.mpr h),
    fun h ha => dataCharacter_discarded (mt hdeaf.mp h) ha, fun h a ha => ?_⟩
  intro frame
  have hd : ¬ (s.unit l).deaf = true := mt hdeaf.mp h
  refine ⟨fun hl h2 h60 => dataCharacter_completes hd ha (takeData_length hl ⟨h2, h60⟩),
    fun hl hbad => dataCharacter_raises hd ha (takeData_badLength hl (by omega)),
    fun n hl hmore => dataCharacter_completes hd ha (takeData_body hl hmore),
    fun n hl hfull => ⟨fun hne => ?_, fun heq hbusy => ?_, fun heq hfree => ?_⟩⟩
  · exact dataCharacter_raises hd ha ((takeData_check hl hfull).trans (if_neg (Ne.symm hne)))
  · refine dataCharacter_raises hd ha ((takeData_check hl hfull).trans ?_)
    rw [if_pos heq.symm]
    refine completeFrame_lost ?_
    rw [updUnit_unit_self]
    exact hbusy
  · refine dataCharacter_completes hd ha ((takeData_accepts hl hfull heq hfree).trans ?_)
    cases l with
    | showLink => rfl
    | servicePort => exact notePendantFrame_service _

end Sys2Proof.Machine

namespace Sys2Proof.Machine

open Safety

/-! ### O11: presentation and the reply path (09 R173, R175, R176) -/

section

variable {l : Link} {s : State}

/-! #### REPLY_TRANSMISSION_END (09 R176) -/

theorem replyTransmissionEnd_of_done (h : transmissionDone s l = true) :
    Completes (.replyTransmissionEnd l) s (updUnit l (.shiftNext s.now) s) := if_pos h

theorem execReplyTransmissionEnd_of_notDone (h : ¬ transmissionDone s l = true) :
    exec (.replyTransmissionEnd l) s = .next s := if_neg h

/-- An idle shifter, or less than the frame's N + 3 characters sent. -/
theorem not_transmissionDone (h : (s.unit l).shifter = none ∨
      ∃ x, (s.unit l).shifter = some x ∧
        (s.now - x.since) * lineRate s l < 11000000 * (x.frame.body.length + 3 : Nat)) :
    ¬ transmissionDone s l = true := by
  rw [transmissionDone_iff]
  rintro ⟨x, hx, hlong⟩
  rcases h with h | ⟨y, hy, hshort⟩
  · rw [h] at hx
    cases hx
  · rw [hx] at hy
    cases hy
    exact Int.not_le.mpr hshort hlong

/-! #### A produced reply (09 R175, R176) -/

section

variable {r : ReplyFrame}

theorem placeReply_begins (h : (s.unit l).shifter = none) :
    placeReply l r s = updUnit l (fun x => { x with shifter := some { frame := r, since := s.now } }) s := by
  rw [placeReply, h]

theorem placeReply_waits (h : (s.unit l).shifter ≠ none) (hslot : (s.unit l).replySlot = none) :
    placeReply l r s = updUnit l (fun x => { x with replySlot := some r }) s := by
  obtain ⟨x, hx⟩ := Option.ne_none_iff_exists'.mp h
  rw [placeReply, hx, hslot]

theorem placeReply_lost (h : (s.unit l).shifter ≠ none) (hslot : (s.unit l).replySlot ≠ none) :
    placeReply l r s = raise (linkError .replyLost l r.detail) s := by
  obtain ⟨x, hx⟩ := Option.ne_none_iff_exists'.mp h
  obtain ⟨y, hy⟩ := Option.ne_none_iff_exists'.mp hslot
  rw [placeReply, hx, hy]

end

/-! #### Presentation (09 R173) -/

/-- The oldest frame is presented, and its buffer is freed. -/
theorem presentFrame_oldest {kind : Byte} {f : Frame} {b : BufferedFrame} {rest : List BufferedFrame}
    (hb : (s.unit f.link).buffers = b :: rest) (ha : b.address = f.address) (hbody : b.body = bodyOf kind f) :
    presentFrame kind f s = some (b.completed, updUnit f.link (.free s.now rest) s) := by
  rw [presentFrame, hb]
  exact if_pos ⟨ha, hbody⟩

theorem free_eq (now : Time) (rest : List BufferedFrame) :
    LinkUnit.free now rest =
      fun x => { x with buffers := rest, presentedAt := if rest = [] then none else some now } := by
  cases rest <;> rfl

end

/-- Settles O11: the end of a transmission, the three ways of a reply, and the presented frame. -/
theorem buffersAndReplies : Obligations.BuffersAndReplies := by
  unfold Obligations.BuffersAndReplies
  refine ⟨rfl, fun l s => ⟨fun x hx hlong => ?_, fun h => ?_⟩, fun kind f code data u => ?_,
    fun kind f s b rest hb ha hbody => ?_⟩
  · exact replyTransmissionEnd_of_done (transmissionDone_iff.mpr ⟨x, hx, hlong⟩)
  · exact execReplyTransmissionEnd_of_notDone (not_transmissionDone h)
  · intro r
    refine ⟨placeReply_begins, placeReply_waits, fun h hslot => ?_⟩
    obtain ⟨m, hm, hraised⟩ := raise_raised (linkError .replyLost f.link r.detail) u
    exact ⟨m, (placeReply_lost h hslot).trans hm, hraised⟩
  · rw [← free_eq]
    exact presentFrame_oldest hb ha hbody

end Sys2Proof.Machine

namespace Sys2Proof.Machine

open Safety

/-! ### O9: the frame check and the characters on a line (09 R166, R167, R176) -/

/-- The running check meets its own value: 00h. -/
theorem checkByte_self (b : Byte) : checkByte b b = 0 := by
  rw [checkByte, BitVec.xor_self]
  rfl

theorem frameCheck_carriedOn (address : Byte) (body : List Byte) :
    (address :: byteOf body.length :: (body ++ [frameCheck address body])).foldl checkByte 0 = 0 := by
  rw [← List.cons_append, ← List.cons_append, List.foldl_append]
  exact checkByte_self _

/-- The example of 10 Table 10.4.1. -/
theorem frameCheck_readState : frameCheck 0x05 [0x70, 0x01] = 0x3D := by
  simp [frameCheck, checkByte, checkShift, byteOf, BitVec.msb_eq_decide]

/-! #### The eleven bits (09 R166) -/

section

variable {marker : Bool} {data : Byte}

theorem bits_start : (Character.bits { marker := marker, data := data }).getLsbD 0 = false := by
  rw [Character.bits, BitVec.getLsbD_append, if_pos (by decide)]
  rfl

theorem bits_data {i : Nat} (h : i < 8) :
    (Character.bits { marker := marker, data := data }).getLsbD (1 + i) = data.getLsbD i := by
  rw [Character.bits, BitVec.getLsbD_append, if_neg (by omega), BitVec.getLsbD_append, if_pos (by omega),
    Nat.add_sub_cancel_left]

theorem bits_marker : (Character.bits { marker := marker, data := data }).getLsbD 9 = marker := by
  rw [Character.bits, BitVec.getLsbD_append, if_neg (by decide), BitVec.getLsbD_append, if_neg (by decide),
    BitVec.getLsbD_append, if_pos (by decide)]
  simp

theorem bits_stop : (Character.bits { marker := marker, data := data }).getLsbD 10 = true := by
  rw [Character.bits, BitVec.getLsbD_append, if_neg (by decide), BitVec.getLsbD_append, if_neg (by decide),
    BitVec.getLsbD_append, if_neg (by decide)]
  rfl

end

section

variable {l : Link} {bits : BitVec 11}

theorem receivedCharacter_framing (h : bits.getLsbD 10 = false) : receivedCharacter l bits = .framingError l := by
  rw [receivedCharacter, h]
  rfl

/-- The eight bits behind the start bit are the value. -/
theorem extract_value {value : Byte} (h : ∀ i, i < 8 → value.getLsbD i = bits.getLsbD (1 + i)) :
    bits.extractLsb' 1 8 = value := by
  refine BitVec.eq_of_getLsbD_eq fun i hi => ?_
  rw [BitVec.getLsbD_extractLsb', h i hi, decide_eq_true hi, Bool.true_and]

theorem receivedCharacter_value {value : Byte} (hstop : bits.getLsbD 10 = true)
    (h : ∀ i, i < 8 → value.getLsbD i = bits.getLsbD (1 + i)) :
    receivedCharacter l bits = if bits.getLsbD 9 then .addressCharacter l value else .dataCharacter l value := by
  rw [receivedCharacter, if_pos hstop, extract_value h]

end

/-! #### The transmit line (09 R176) -/

section

variable {l : Link} {s : State}

theorem toNat_ediv_eq {e : Int} {n : Nat} (h1 : (n : Int) * 1000000 ≤ e) (h2 : e < ((n : Int) + 1) * 1000000) :
    (e / 1000000).toNat = n := by omega

/-- Whole bit times that have gone by, by the time that has (log 18). -/
theorem bitsElapsed_eq {since : Time} {n : Nat} (h1 : (n : Int) * 1000000 ≤ (s.now - since) * lineRate s l)
    (h2 : (s.now - since) * lineRate s l < ((n : Int) + 1) * 1000000) : bitsElapsed s l since = n := by
  rw [bitsElapsed, bitRate_eq]
  exact toNat_ediv_eq h1 h2

theorem transmitLevel_sending {x : Transmission} {n : Nat} {c : Character} (hx : (s.unit l).shifter = some x)
    (hn : bitsElapsed s l x.since = n) (hc : x.frame.characters[n / 11]? = some c) :
    transmitLevel s l = some (c.bits.getLsbD (n % 11)) := by
  unfold transmitLevel
  rw [hx]
  dsimp only
  rw [hn, ReplyFrame.levelAt, hc]

/-- The level that the part leaves a line at rest at: the shared reply line released, the pendant's at mark. -/
def restLevel : Link → Option Bool
  | .showLink => none
  | .servicePort => some true

theorem transmitLevel_idle (h : (s.unit l).shifter = none) : transmitLevel s l = restLevel l := by
  unfold transmitLevel
  rw [h]
  cases l <;> rfl

end

/-- A reply's characters: the address, and then the length, the body and the check as data. -/
theorem characters_eq (r : ReplyFrame) :
    r.characters =
      { marker := true, data := r.address } :: { marker := false, data := byteOf r.body.length } ::
        (r.body.map (fun b => { marker := false, data := b }) ++
          [{ marker := false, data := frameCheck r.address r.body }]) := by
  rw [ReplyFrame.characters, List.cons_append, List.map_cons, List.map_append]
  rfl

/-- Settles O9: the check, the bits of a character sent and received, and the line of a reply. -/
theorem frameCheck_holds : Obligations.FrameCheck := by
  unfold Obligations.FrameCheck
  refine ⟨frameCheck_carriedOn, frameCheck_readState, fun marker data => ?_, fun l bits => ?_,
    fun l s => ⟨?_, fun h => ?_⟩⟩
  · exact ⟨bits_start, fun i hi => bits_data hi, bits_marker, bits_stop⟩
  · refine ⟨receivedCharacter_framing, fun value hstop hvalue => ⟨fun hm => ?_, fun hm => ?_⟩⟩
    all_goals
      rw [receivedCharacter_value hstop hvalue, hm]
      rfl
  · intro x n c hx data sent h1 h2 hc
    exact transmitLevel_sending hx (bitsElapsed_eq h1 h2) ((congrArg (·[n / 11]?) (characters_eq x.frame)).trans hc)
  · rw [transmitLevel_idle h]
    cases l <;> rfl

end Sys2Proof.Machine

namespace Sys2Proof.Machine

open Safety

/-! ### O28: READ EXCHANGE and WRITE EXCHANGE (09 R178, R179) -/

/-- The words of a body or a reply as bytes. -/
def wordBytes (values : List (BitVec 16)) : List Byte := values.flatMap fun w => be16 w.toNat

/-- A word is read back from its two bytes. -/
theorem append_byteOf (w : BitVec 16) : byteOf (w.toNat / 256) ++ byteOf w.toNat = w := by
  refine BitVec.eq_of_toNat_eq ?_
  have hw := w.isLt
  rw [BitVec.toNat_append, toNat_byteOf, toNat_byteOf, ← Nat.shiftLeft_add_eq_or_of_lt (Nat.mod_lt _ (by decide)),
    Nat.shiftLeft_eq]
  omega

theorem wordList_wordBytes (values : List (BitVec 16)) : wordList (wordBytes values) = values := by
  induction values with
  | nil => rfl
  | cons w values ih =>
    change (byteOf (w.toNat / 256) ++ byteOf w.toNat) :: wordList (wordBytes values) = _
    rw [append_byteOf, ih]

theorem wordBytes_length (values : List (BitVec 16)) : (wordBytes values).length = 2 * values.length := by
  induction values with
  | nil => rfl
  | cons w values ih =>
    change (wordBytes values).length + 2 = _
    rw [ih, List.length_cons]
    rfl

theorem wordBytes_snoc (values : List (BitVec 16)) (e : BitVec 16) :
    wordBytes values ++ be16 e.toNat = wordBytes (values ++ [e]) := by
  simp [wordBytes]

/-- The ranges of the first word and the count, one by one. -/
theorem exchangeRange_iff {first count : Nat} :
    exchangeRange first count = true ↔ first ≤ 7 ∧ 1 ≤ count ∧ count ≤ 8 ∧ first + count ≤ 8 := by
  simp only [exchangeRange, Bool.and_eq_true, decide_eq_true_iff]
  omega

/-! #### The words written (09 R179) -/

/-- Each value into its word from the first onward; the other words stay. -/
theorem writeWords_get (first : Nat) (values : List (BitVec 16)) (v : Vector (BitVec 16) 8) (i : Fin 8) :
    (writeWords first values v)[i] =
      if first ≤ i.val then values.getD (i.val - first) v[i] else v[i] := by
  induction values generalizing first v with
  | nil => simp [writeWords]
  | cons w values ih =>
    have hset : (v.setIfInBounds first w)[i] = if first = i.val then w else v[i] :=
      Vector.getElem_setIfInBounds i.isLt
    rw [writeWords, ih, hset]
    rcases Nat.lt_trichotomy first i.val with hlt | heq | hgt
    · have hsucc : i.val - first = i.val - (first + 1) + 1 := by omega
      rw [if_neg (Nat.ne_of_lt hlt), if_pos (Nat.succ_le_of_lt hlt), if_pos (Nat.le_of_lt hlt), hsucc,
        List.getD_cons_succ]
    · rw [if_pos heq, if_neg (by omega), if_pos (Nat.le_of_eq heq), heq, Nat.sub_self, List.getD_cons_zero]
    · rw [if_neg (Nat.ne_of_gt hgt), if_neg (by omega), if_neg (Nat.not_le.mpr hgt)]

/-- The words just written are read back. -/
theorem wordsOf_writeWords {first : Nat} {values : List (BitVec 16)} (v : Vector (BitVec 16) 8)
    (h : first + values.length ≤ 8) :
    ((writeWords first values v).toList.drop first).take values.length = values := by
  refine List.ext_getElem (by simp; omega) fun n hn hvalues => ?_
  have hget := writeWords_get first values v ⟨first + n, by omega⟩
  rw [if_pos (Nat.le_add_right _ _), Nat.add_sub_cancel_left] at hget
  simp only [List.getElem_take, List.getElem_drop, Vector.getElem_toList]
  refine hget.trans ?_
  simp [hvalues]

/-! #### READ EXCHANGE (09 R178) -/

section

variable {f : Frame} {s t u : State} {first count : Byte} {code : ReplyCode} {data : List Byte}

theorem readExchange_answers (h : Offered 0x90 f s t) (hf : f.fields = [first, count])
    (ha : readExchangeAct first count t = (u, ⟨code, data⟩)) : Answers 0x90 (.readExchange f) f s code data u :=
  answers_addressed (decode := readExchangeBody) h rfl (addressed_allows h) (by rw [hf]; rfl) ha

theorem readExchangeAct_range (h : ¬ exchangeRange first.toNat count.toNat = true) :
    readExchangeAct first count t = (t, ⟨.range, []⟩) := if_neg h

theorem readExchangeAct_eq (h : exchangeRange first.toNat count.toNat = true) :
    readExchangeAct first count t = (t, ⟨.done, wordsData t.settings first.toNat count.toNat⟩) := if_pos h

/-! #### WRITE EXCHANGE (09 R179) -/

section

variable {values : List (BitVec 16)} {expected : Option (BitVec 16)}

/-- What a write leaves: the exchange words with the values, from the first onward. -/
def exchanged (first : Nat) (values : List (BitVec 16)) (t : State) : State :=
  { t with settings := { t.settings with exchange := writeWords first values t.settings.exchange } }

/-- The first form of a body: no expected value. -/
theorem writeExchangeBody_plain (hv : values.length = count.toNat) :
    writeExchangeBody (first :: count :: wordBytes values) =
      some (writeExchangeAct first count values none) := by
  have hlen : (wordBytes values).length = 2 * count.toNat := by rw [wordBytes_length, hv]
  rw [writeExchangeBody, if_pos hlen, wordList_wordBytes]

/-- The second form of a body: the expected value behind the values. -/
theorem writeExchangeBody_expecting (e : BitVec 16) (hv : values.length = count.toNat) :
    writeExchangeBody (first :: count :: (wordBytes values ++ be16 e.toNat)) =
      some (writeExchangeAct first count values (some e)) := by
  have hlen : (wordBytes (values ++ [e])).length = 2 * count.toNat + 2 := by
    rw [wordBytes_length, List.length_append, hv]
    rfl
  rw [wordBytes_snoc, writeExchangeBody, if_neg (by omega), if_pos hlen, wordList_wordBytes,
    ← hv, List.take_left, List.getElem?_concat_length]

theorem writeExchange_answers (h : Offered 0x91 f s t)
    (hd : writeExchangeBody f.fields = some (writeExchangeAct first count values expected))
    (ha : writeExchangeAct first count values expected t = (u, ⟨code, data⟩)) :
    Answers 0x91 (.writeExchange f) f s code data u :=
  answers_addressed (decode := writeExchangeBody) h rfl (addressed_allows h) hd ha

theorem writeExchangeAct_range (h : ¬ exchangeRange first.toNat count.toNat = true) :
    writeExchangeAct first count values expected t = (t, ⟨.range, []⟩) := if_neg h

/-- The words are stored, and the reply carries them as they then stand: the values. -/
theorem storeWords_eq (h : exchangeRange first.toNat count.toNat = true) (hv : values.length = count.toNat) :
    storeWords first.toNat count.toNat values t =
      (exchanged first.toNat values t, ⟨.done, wordBytes values⟩) := by
  have hroom : first.toNat + values.length ≤ 8 := by
    obtain ⟨-, -, -, hsum⟩ := exchangeRange_iff.mp h
    rwa [hv]
  have hwords : wordsData (exchanged first.toNat values t).settings first.toNat count.toNat = wordBytes values := by
    rw [wordsData, ← hv]
    exact congrArg wordBytes (wordsOf_writeWords t.settings.exchange hroom)
  rw [← hwords]
  rfl

theorem writeExchangeAct_plain (h : exchangeRange first.toNat count.toNat = true) (hv : values.length = count.toNat) :
    writeExchangeAct first count values none t = (exchanged first.toNat values t, ⟨.done, wordBytes values⟩) :=
  (if_pos h).trans (storeWords_eq h hv)

/-- With an expected value the first word decides. -/
theorem writeExchangeAct_expecting {e : BitVec 16} {i : Fin 8} (h : exchangeRange first.toNat count.toNat = true)
    (hi : first.toNat = i.val) :
    writeExchangeAct first count values (some e) t =
      if t.settings.exchange[i] = e then storeWords first.toNat count.toNat values t
      else (t, ⟨.conflict, be16 t.settings.exchange[i].toNat⟩) := by
  have hfirst : t.settings.exchange.toList.getD first.toNat 0 = t.settings.exchange[i] := by
    simp [hi]
  rw [writeExchangeAct, if_pos h]
  dsimp only
  rw [hfirst]

/-- The words that a write leaves, in the words of the statement. -/
theorem exchanged_words (first : Nat) (values : List (BitVec 16)) (t : State) (i : Fin 8) :
    (exchanged first values t).settings.exchange[i] =
      if first ≤ i.val then values.getD (i.val - first) t.settings.exchange[i] else t.settings.exchange[i] :=
  writeWords_get first values t.settings.exchange i

end

end

/-- Settles O28: the range, and then the words read, written, or kept for a first word that differs. -/
theorem exchangeWords : Obligations.ExchangeWords := by
  unfold Obligations.ExchangeWords
  intro f s t first count inRange data
  have hrange : exchangeRange first.toNat count.toNat = true ↔ inRange := exchangeRange_iff
  refine ⟨fun h hf => ⟨fun hn => ?_, fun hr => ?_⟩, fun values hv h => ?_⟩
  · exact readExchange_answers h hf (readExchangeAct_range (mt hrange.mp hn))
  · exact readExchange_answers h hf (readExchangeAct_eq (hrange.mpr hr))
  · intro a bytes written
    have hwritten : written (exchanged first.toNat values t) :=
      ⟨rfl, exchanged_words first.toNat values t⟩
    refine ⟨fun hf => ?_, fun expected hf => ?_⟩
    · have hd := (congrArg writeExchangeBody hf).trans (writeExchangeBody_plain hv)
      exact ⟨fun hn => writeExchange_answers h hd (writeExchangeAct_range (mt hrange.mp hn)),
        fun hr => ⟨_, hwritten, writeExchange_answers h hd (writeExchangeAct_plain (hrange.mpr hr) hv)⟩⟩
    · have hd := (congrArg writeExchangeBody hf).trans (writeExchangeBody_expecting expected hv)
      refine ⟨fun hn => writeExchange_answers h hd (writeExchangeAct_range (mt hrange.mp hn)),
        fun i hr hi heq => ⟨_, hwritten, writeExchange_answers h hd ?_⟩,
        fun i hr hi hne => writeExchange_answers h hd ?_⟩
      · rw [writeExchangeAct_expecting (hrange.mpr hr) hi, if_pos heq, storeWords_eq (hrange.mpr hr) hv]
        rfl
      · rw [writeExchangeAct_expecting (hrange.mpr hr) hi, if_neg hne]

end Sys2Proof.Machine

namespace Sys2Proof.Machine

open Safety

/-! ### O12: the envelope (09 R174, Table 9.3.1, 10 Table 10.2.1)

Every request of the table hands its frame to `takeRequest`, with the permission of its kind and a body that reads
nothing of an unsuitable length. -/

/-! #### Who may issue a request (09 Table 9.3.1) -/

/-- The permission of each kind of the table; `hasEnvelope_of_known` ties it to the commands. -/
def permissionOf (kind : Byte) : Permission :=
  if kind = 0x14 then .broadcastOnly
  else if kind = 0x15 ∨ kind = 0x71 then .everyForm
  else if kind ∈ pendantKinds then .pendantOnly
  else .addressed

/-- The links that may issue an addressed request of a kind: none, the service port, or both. -/
theorem permissionOf_offered {kind : Byte} {f : Frame} (hb : isBroadcast f = false) :
    (permissionOf kind).allows f = true ↔ kind ≠ 0x14 ∧ (kind ∈ pendantKinds → f.link = .servicePort) := by
  have haddressed : Permission.addressed.allows f = true := by rw [Permission.allows, hb]; rfl
  unfold permissionOf
  split
  · next h => exact iff_of_false (Bool.not_eq_true _ |>.mpr hb) fun hn => hn.1 h
  next h14 =>
  split
  · next h => exact iff_of_true rfl ⟨h14, fun hp => absurd hp (by rcases h with rfl | rfl <;> decide)⟩
  split
  · next hp => exact beq_iff_eq.trans ⟨fun hl => ⟨h14, fun _ => hl⟩, fun h => h.2 hp⟩
  · next hp => exact iff_of_true haddressed ⟨h14, fun h => absurd h hp⟩

/-- The kinds of which the show link takes a broadcast: SYNC, NUDGE and HUSH. -/
theorem permissionOf_toAll {kind : Byte} {f : Frame} (hb : isBroadcast f = true) :
    (permissionOf kind).allows f = true ↔ kind ∈ [0x14, 0x15, 0x71] := by
  have haddressed : ¬ Permission.addressed.allows f = true := by rw [Permission.allows, hb]; decide
  have hpendant : ¬ Permission.pendantOnly.allows f = true := by
    obtain ⟨hl, -⟩ := (Bool.and_eq_true ..).mp hb
    rw [Permission.allows, beq_iff_eq.mp hl]
    decide
  have hkinds : kind ∈ [0x14, 0x15, 0x71] ↔ kind = 0x14 ∨ kind = 0x15 ∨ kind = 0x71 := by
    simp only [List.mem_cons, List.not_mem_nil, or_false]
  rw [hkinds]
  unfold permissionOf
  split
  · next h => exact iff_of_true hb (.inl h)
  next h14 =>
  split
  · next h => exact iff_of_true rfl (.inr h)
  next h =>
  split
  · exact iff_of_false hpendant (not_or.mpr ⟨h14, h⟩)
  · exact iff_of_false haddressed (not_or.mpr ⟨h14, h⟩)

/-! #### Bodies of an unsuitable length

`lengthSuits` counts the kind byte and the tag too, so that a body of n bytes has n - 2 fields. -/

section

variable {fields : List Byte} {decode : List Byte → Option Action}

theorem unread_zero (h : (fields.length + 2 == 2) = false) (hd : ∀ a rest, decode (a :: rest) = none) :
    decode fields = none :=
  match fields, h with
  | a :: rest, _ => hd a rest

theorem unread_one (h : (fields.length + 2 == 3) = false) (h0 : decode [] = none)
    (hd : ∀ a b rest, decode (a :: b :: rest) = none) : decode fields = none :=
  match fields, h with
  | [], _ => h0
  | a :: b :: rest, _ => hd a b rest

theorem unread_two (h : (fields.length + 2 == 4) = false) (h0 : decode [] = none) (h1 : ∀ a, decode [a] = none)
    (hd : ∀ a b c rest, decode (a :: b :: c :: rest) = none) : decode fields = none :=
  match fields, h with
  | [], _ => h0
  | [a], _ => h1 a
  | a :: b :: c :: rest, _ => hd a b c rest

theorem unread_three (h : (fields.length + 2 == 5) = false) (h0 : decode [] = none) (h1 : ∀ a, decode [a] = none)
    (h2 : ∀ a b, decode [a, b] = none) (hd : ∀ a b c d rest, decode (a :: b :: c :: d :: rest) = none) :
    decode fields = none :=
  match fields, h with
  | [], _ => h0
  | [a], _ => h1 a
  | [a, b], _ => h2 a b
  | a :: b :: c :: d :: rest, _ => hd a b c d rest

theorem unread_four (h : (fields.length + 2 == 6) = false) (h0 : decode [] = none) (h1 : ∀ a, decode [a] = none)
    (h2 : ∀ a b, decode [a, b] = none) (h3 : ∀ a b c, decode [a, b, c] = none)
    (hd : ∀ a b c d e rest, decode (a :: b :: c :: d :: e :: rest) = none) : decode fields = none :=
  match fields, h with
  | [], _ => h0
  | [a], _ => h1 a
  | [a, b], _ => h2 a b
  | [a, b, c], _ => h3 a b c
  | a :: b :: c :: d :: e :: rest, _ => hd a b c d e rest

theorem unread_five (h : (fields.length + 2 == 7) = false) (h0 : decode [] = none) (h1 : ∀ a, decode [a] = none)
    (h2 : ∀ a b, decode [a, b] = none) (h3 : ∀ a b c, decode [a, b, c] = none)
    (h4 : ∀ a b c d, decode [a, b, c, d] = none)
    (hd : ∀ a b c d e g rest, decode (a :: b :: c :: d :: e :: g :: rest) = none) : decode fields = none :=
  match fields, h with
  | [], _ => h0
  | [a], _ => h1 a
  | [a, b], _ => h2 a b
  | [a, b, c], _ => h3 a b c
  | [a, b, c, d], _ => h4 a b c d
  | a :: b :: c :: d :: e :: g :: rest, _ => hd a b c d e g rest

/-- A body of one or two fields. -/
theorem unread_oneOrTwo (h : (fields.length + 2 == 3 || fields.length + 2 == 4) = false) (h0 : decode [] = none)
    (hd : ∀ a b c rest, decode (a :: b :: c :: rest) = none) : decode fields = none :=
  match fields, h with
  | [], _ => h0
  | a :: b :: c :: rest, _ => hd a b c rest

end

section

variable {l : Link} {fields : List Byte}

theorem readStackBody_unread (h : lengthSuits 0x27 fields = false) : readStackBody fields = none :=
  match fields, h with
  | _ :: _ :: _, _ => rfl

theorem openCueBody_unread (h : lengthSuits 0x10 fields = false) : openCueBody l fields = none := by
  unfold openCueBody
  split
  · cases h
  · rfl

theorem syncBody_unread {completed : Time} (h : lengthSuits 0x14 fields = false) :
    syncBody completed fields = none := by
  unfold syncBody
  split
  · cases h
  · rfl

theorem setLanesBody_unread (h : lengthSuits 0x36 fields = false) : setLanesBody l fields = none := by
  unfold setLanesBody
  split
  · cases h
  · cases h
  · rfl

theorem setCurveBody_unread (h : lengthSuits 0x34 fields = false) : setCurveBody l fields = none := by
  unfold setCurveBody
  split
  · next curve points =>
    have hpoints : curvePoints points = none := by
      unfold curvePoints
      split
      · cases h
      · rfl
    rw [hpoints]
    rfl
  · rfl

/-! #### Bodies that carry a count

What `lengthSuits` asks of such a body is that as many items follow as its count says. -/

section

variable {a b c d count : Byte} {rest : List Byte}

theorem lengthSuits_events : lengthSuits 0x11 (a :: count :: rest) = true ↔ rest.length = 8 * count.toNat := by
  change (decide (4 ≤ rest.length + 4) && rest.length + 4 == 4 + 8 * count.toNat) = true ↔ _
  rw [Bool.and_eq_true, decide_eq_true_iff, beq_iff_eq]
  omega

theorem lengthSuits_setGroup :
    lengthSuits 0x32 (a :: b :: c :: d :: count :: rest) = true ↔ rest.length = count.toNat := by
  change (decide (7 ≤ rest.length + 7) && rest.length + 7 == 7 + count.toNat) = true ↔ _
  rw [Bool.and_eq_true, decide_eq_true_iff, beq_iff_eq]
  omega

theorem lengthSuits_loadPhases : lengthSuits 0x50 (a :: count :: rest) = true ↔ rest.length = count.toNat := by
  change (decide (4 ≤ rest.length + 4) && rest.length + 4 == 4 + count.toNat) = true ↔ _
  rw [Bool.and_eq_true, decide_eq_true_iff, beq_iff_eq]
  omega

theorem lengthSuits_writeExchange :
    lengthSuits 0x91 (a :: count :: rest) = true ↔
      rest.length = 2 * count.toNat ∨ rest.length = 2 * count.toNat + 2 := by
  change (decide (4 ≤ rest.length + 4) &&
    (rest.length + 4 == 4 + 2 * count.toNat || rest.length + 4 == 6 + 2 * count.toNat)) = true ↔ _
  rw [Bool.and_eq_true, Bool.or_eq_true, decide_eq_true_iff, beq_iff_eq, beq_iff_eq]
  omega

end

theorem eventsBody_unread (h : lengthSuits 0x11 fields = false) : eventsBody l fields = none := by
  unfold eventsBody
  split
  · exact if_neg (mt lengthSuits_events.mpr (Bool.eq_false_iff.mp h))
  · rfl

theorem setGroupBody_unread (h : lengthSuits 0x32 fields = false) : setGroupBody l fields = none := by
  unfold setGroupBody
  split
  · exact if_neg (mt lengthSuits_setGroup.mpr (Bool.eq_false_iff.mp h))
  · rfl

theorem loadPhasesBody_unread (h : lengthSuits 0x50 fields = false) : loadPhasesBody l fields = none := by
  unfold loadPhasesBody
  split
  · exact if_neg (mt lengthSuits_loadPhases.mpr (Bool.eq_false_iff.mp h))
  · rfl

theorem writeExchangeBody_unread (h : lengthSuits 0x91 fields = false) : writeExchangeBody fields = none := by
  unfold writeExchangeBody
  split
  · obtain ⟨hplain, hexpecting⟩ := not_or.mp (mt lengthSuits_writeExchange.mpr (Bool.eq_false_iff.mp h))
    exact (if_neg hplain).trans (if_neg hexpecting)
  · rfl

end

/-! #### Every request of the table -/

theorem takeTimedRequest_eq (kind : Byte) (p : Permission) (f : Frame) (decode : Time → List Byte → Option Action)
    (s : State) : ∃ completed, takeTimedRequest kind p f decode s = takeRequest kind p f (decode completed) s := by
  unfold takeRequest takeTimedRequest
  cases presentFrame kind f s with
  | none => exact ⟨0, rfl⟩
  | some presented => exact ⟨presented.1, rfl⟩

/-- The command is no request, or one of the table: its frame is presented and judged by the permission of its
kind, and a body of an unsuitable length is not read. -/
def HasEnvelope (c : Instr) : Prop :=
  ∀ (kind : Byte) (f : Frame) (s : State), c.request? = some (kind, f) →
    kind ∈ requestKinds ∧ ∃ decode, exec c s = takeRequest kind (permissionOf kind) f decode s ∧
      (lengthSuits kind f.fields = false → decode f.fields = none)

theorem hasEnvelope_of {c : Instr} {kind : Byte} {f : Frame} {decode : List Byte → Option Action}
    (hr : c.request? = some (kind, f)) (hk : kind ∈ requestKinds)
    (hc : ∀ s, exec c s = takeRequest kind (permissionOf kind) f decode s)
    (hd : lengthSuits kind f.fields = false → decode f.fields = none) : HasEnvelope c := by
  intro k g s hreq
  rw [hr] at hreq
  cases hreq
  exact ⟨hk, decode, hc s, hd⟩

theorem sync_hasEnvelope (f : Frame) : HasEnvelope (.sync f) := by
  intro k g s hr
  cases hr
  obtain ⟨completed, hc⟩ := takeTimedRequest_eq 0x14 .broadcastOnly f syncBody s
  exact ⟨by decide, syncBody completed, hc, syncBody_unread⟩

theorem hasEnvelope_of_known {c : Instr} (h : ∀ kind f, c ≠ .unknownRequest kind f) : HasEnvelope c := by
  cases c with
  | unknownRequest kind f => exact absurd rfl (h kind f)
  | sync f => exact sync_hasEnvelope f
  | pause | continueCue | commitPhases | readState | hush | sectionReset | release | clearHalt | readFaults
  | readCapture | clearCapture | readAttention =>
    exact hasEnvelope_of rfl (by decide) (fun _ => rfl) fun h => unread_zero h fun _ _ => rfl
  | setHorizon | nudge | start | dropCue | setMask | readGroup | readRail | clearRailLatch | readChannel | fence
  | unfence | take | setBreakHush | readCounts | call =>
    exact hasEnvelope_of rfl (by decide) (fun _ => rfl) fun h => unread_one h rfl fun _ _ _ => rfl
  | setTranspose | setDynamics | readWindow | readFireList | setLateLimits | testHold | testRotor | clearFaults
  | setSeverity | clearAttention | maskAttention | unmaskAttention | readExchange =>
    exact hasEnvelope_of rfl (by decide) (fun _ => rfl) fun h => unread_two h rfl (fun _ => rfl) fun _ _ _ _ => rfl
  | readPhases | testFire | setFaultMask =>
    exact hasEnvelope_of rfl (by decide) (fun _ => rfl) fun h =>
      unread_three h rfl (fun _ => rfl) (fun _ _ => rfl) fun _ _ _ _ _ => rfl
  | setChannel | setHoldChannel =>
    exact hasEnvelope_of rfl (by decide) (fun _ => rfl) fun h =>
      unread_four h rfl (fun _ => rfl) (fun _ _ => rfl) (fun _ _ _ => rfl) fun _ _ _ _ _ _ => rfl
  | setWindow | setRail | setRotorChannel =>
    exact hasEnvelope_of rfl (by decide) (fun _ => rfl) fun h =>
      unread_five h rfl (fun _ => rfl) (fun _ _ => rfl) (fun _ _ _ => rfl) (fun _ _ _ _ => rfl)
        fun _ _ _ _ _ _ _ => rfl
  | readCue | readCurve =>
    exact hasEnvelope_of rfl (by decide) (fun _ => rfl) fun h => unread_oneOrTwo h rfl fun _ _ _ _ => rfl
  | readStack => exact hasEnvelope_of rfl (by decide) (fun _ => rfl) readStackBody_unread
  | openCue => exact hasEnvelope_of rfl (by decide) (fun _ => rfl) openCueBody_unread
  | setLanes => exact hasEnvelope_of rfl (by decide) (fun _ => rfl) setLanesBody_unread
  | setCurve => exact hasEnvelope_of rfl (by decide) (fun _ => rfl) setCurveBody_unread
  | events => exact hasEnvelope_of rfl (by decide) (fun _ => rfl) eventsBody_unread
  | setGroup => exact hasEnvelope_of rfl (by decide) (fun _ => rfl) setGroupBody_unread
  | loadPhases => exact hasEnvelope_of rfl (by decide) (fun _ => rfl) loadPhasesBody_unread
  | writeExchange => exact hasEnvelope_of rfl (by decide) (fun _ => rfl) writeExchangeBody_unread
  | _ =>
    intro kind f s hr
    cases hr

/-! #### A kind that names no request (09 R174 step 2) -/

theorem unknownRequest_notKind {kind : Byte} {f : Frame} (hw : (Instr.unknownRequest kind f).wellFormed = true) :
    kind ∉ requestKinds := fun hmem => by
  rw [Instr.wellFormed, List.contains_iff_mem.mpr hmem, Bool.not_true, Bool.and_false] at hw
  cases hw

theorem execUnknownRequest_eq {kind : Byte} {f : Frame} {s : State} (hk : kind ∉ requestKinds) :
    exec (.unknownRequest kind f) s = takeRequest kind .addressed f (fun _ => some (refuse .unknown)) s :=
  if_neg (mt List.contains_iff_mem.mp hk)

/-- A well-formed request names a kind of the table, or none. -/
theorem request_cases {c : Instr} {kind : Byte} {f : Frame} (hr : c.request? = some (kind, f))
    (hw : c.wellFormed = true) : (c = .unknownRequest kind f ∧ kind ∉ requestKinds) ∨ HasEnvelope c := by
  by_cases h : ∃ k g, c = .unknownRequest k g
  · obtain ⟨k, g, rfl⟩ := h
    cases hr
    exact .inl ⟨rfl, unknownRequest_notKind hw⟩
  · exact .inr (hasEnvelope_of_known fun k g hc => h ⟨k, g, hc⟩)

/-- Settles O12: a kind that names no request, and then the form, the link and the length of one that does. -/
theorem envelope_holds : Obligations.Envelope := by
  unfold Obligations.Envelope
  refine ⟨fun c kind f s t hr hw ho hk => ?_, fun c kind f s t hr hw ho hk h14 hp hl => ?_,
    fun c kind f s t hr hw ho hk => ?_⟩
  · rcases request_cases hr hw with ⟨rfl, hn⟩ | henv
    · exact answers_addressed ho (execUnknownRequest_eq hn) (addressed_allows ho) rfl rfl
    · obtain ⟨hmem, decode, hc, -⟩ := henv kind f s hr
      have hrefused : (permissionOf kind).allows f = false := by
        rw [Bool.eq_false_iff, Ne, permissionOf_offered ho.2]
        rintro ⟨h14, hport⟩
        rcases hk with hk | hk | ⟨hk, hl⟩
        · exact hk hmem
        · exact h14 hk
        · rw [hport hk] at hl
          cases hl
      exact hc.trans (takeRequest_unknown ho hrefused)
  · rcases request_cases hr hw with ⟨rfl, hn⟩ | henv
    · exact absurd hk hn
    · obtain ⟨-, decode, hc, hd⟩ := henv kind f s hr
      exact hc.trans (takeRequest_length ho ((permissionOf_offered ho.2).mpr ⟨h14, hp⟩) (hd hl))
  · rcases request_cases hr hw with ⟨rfl, hn⟩ | henv
    · exact (execUnknownRequest_eq hn).trans
        (takeRequest_ignored ho (.inl (by rw [Permission.allows, ho.2]; rfl)))
    · obtain ⟨-, decode, hc, hd⟩ := henv kind f s hr
      refine hc.trans (takeRequest_ignored ho (hk.imp (fun hn => ?_) hd))
      rw [Bool.eq_false_iff, Ne, permissionOf_toAll ho.2]
      exact hn

end Sys2Proof.Machine

namespace Sys2Proof.Machine

open Safety

/-! ### O15: the event records (10 R182, Table 10.2.3)

The number forms of a record's fields are read back from their bytes, then the fields of each kind, then the record. -/

/-- A number below 256 is read back from its byte. -/
theorem toNat_byteOf_of_le {n : Nat} (h : n ≤ 255) : (byteOf n).toNat = n := by
  rw [toNat_byteOf]
  omega

/-- A number of three bytes is read back from them. -/
theorem u24_byteOf {n : Nat} (h : n ≤ 16777215) : u24 (byteOf (n / 65536)) (byteOf (n / 256)) (byteOf n) = n := by
  simp only [u24, u16, toNat_byteOf]
  omega

/-- A number of four bytes is read back from them. -/
theorem u32_byteOf {n : Nat} (h : n ≤ 4294967295) :
    u32 (byteOf (n / 65536 / 256)) (byteOf (n / 65536)) (byteOf (n / 256)) (byteOf n) = n := by
  simp only [u32, u16, toNat_byteOf]
  omega

/-! #### The fields of each kind (10 Table 10.2.3) -/

theorem eventData_note {p v : Nat} {cls : Fin 8} (hp : p ≤ 127) (h1 : 1 ≤ v) (hv : v ≤ 127) :
    eventData 1 (byteOf p) (byteOf v) (finByte cls) = some (.note p v cls) := by
  have ep := toNat_byteOf_of_le (n := p) (by omega)
  have ev := toNat_byteOf_of_le (n := v) (by omega)
  simp [eventData, toFin_finByte, ep, ev, hp, h1, hv]

theorem eventData_hold (h : HoldId) (on : Bool) (c : Byte) :
    eventData 2 (finByte h) (boolByte on) c = some (.hold h on) := by
  simp [eventData, toFin_finByte, yesNo_boolByte]

theorem eventData_rotor (m : RotorId) {target : Nat} (h : target ≤ 120) (c : Byte) :
    eventData 3 (finByte m) (byteOf target) c = some (.rotor m target) := by
  have et := toNat_byteOf_of_le (n := target) (by omega)
  simp [eventData, toFin_finByte, et, h]

theorem eventData_tempo {p : Nat} (hlow : 200000 ≤ p) (hhigh : p ≤ 2000000) :
    eventData 4 (byteOf (p / 65536)) (byteOf (p / 256)) (byteOf p) = some (.tempo p) := by
  have ep := u24_byteOf (n := p) (by omega)
  simp [eventData, ep, hlow, hhigh]

theorem eventData_meter {m : Nat} (hlow : 1 ≤ m) (hhigh : m ≤ 16) (b c : Byte) :
    eventData 5 (byteOf m) b c = some (.meter m) := by
  have em := toNat_byteOf_of_le (n := m) (by omega)
  simp [eventData, em, hlow, hhigh]

theorem eventData_mark {n : Nat} (h : n ≤ 255) (b c : Byte) : eventData 6 (byteOf n) b c = some (.mark n) := by
  simp [eventData, toNat_byteOf_of_le h]

theorem eventData_ending (a b c : Byte) : eventData 7 a b c = some .ending := rfl

/-! #### The record -/

/-- A tick and four bytes that read as an event's fields are that event's record; the rest is read on its own. -/
theorem eventRecords_record {tick : Nat} {data : EventData} {kind a b c : Byte} (ht : tick ≤ 4294967295)
    (hd : eventData kind a b c = some data) (rest : List Byte) :
    eventRecords (be32 tick ++ [kind, a, b, c] ++ rest) = some ⟨tick, data⟩ :: eventRecords rest := by
  simp only [be32, be16, List.cons_append, List.nil_append]
  rw [eventRecords, hd, u32_byteOf ht]
  rfl

/-- Settles O15: the tick is read from the first four bytes and the fields, kind by kind, from the other four. -/
theorem eventRecordRoundTrip : Obligations.EventRecordRoundTrip := by
  unfold Obligations.EventRecordRoundTrip
  rintro ⟨tick, data⟩ rest ⟨ht, hdata⟩
  cases data with
  | note p v cls =>
    obtain ⟨hp, h1, hv⟩ := hdata
    exact eventRecords_record ht (eventData_note hp h1 hv) rest
  | hold h on => exact eventRecords_record ht (eventData_hold h on 0) rest
  | rotor m target => exact eventRecords_record ht (eventData_rotor m hdata 0) rest
  | tempo p =>
    obtain ⟨hlow, hhigh⟩ := hdata
    exact eventRecords_record ht (eventData_tempo hlow hhigh) rest
  | meter m =>
    obtain ⟨hlow, hhigh⟩ := hdata
    exact eventRecords_record ht (eventData_meter hlow hhigh 0 0) rest
  | mark n => exact eventRecords_record ht (eventData_mark hdata 0 0) rest
  | ending => exact eventRecords_record ht (eventData_ending 0 0 0) rest

end Sys2Proof.Machine

namespace Sys2Proof.Machine

/-! ### O1: the command at the front of the queue (00 Table 0.3.1)

`step_idle` says what a step does with an empty queue; `step_front` says the other half. -/

theorem step_front {s : State} {c : Instr} {rest : List Instr} (hp : s.pending = c :: rest) :
    step s = exec c { s with pending := rest } := by
  unfold step
  rw [hp]

/-- Settles O1: the queue in front of which a command was put has that command as its front, and taking it off
gives back the state as it was. -/
theorem stepRunsTheFrontCommand : Obligations.StepRunsTheFrontCommand := by
  unfold Obligations.StepRunsTheFrontCommand
  intro c s
  exact step_front (s := { s with pending := c :: s.pending }) rfl

end Sys2Proof.Machine
